-- ==== Sys2Proof/Word.lean ====
section
/-! DEFINITION. The word types of the RC4 cipher engine (00_scope.md R5, R8, R10). -/

namespace Sys2Proof

/-- An 8-bit value: an entry of S or K, a cursor, a counter, an operand (R5, R6, R8). -/
abbrev Byte := BitVec 8

/-- A 16-bit command or response word (R8). -/
abbrev Word := BitVec 16

/-- A 4-bit opcode field (R8). -/
abbrev Opc := BitVec 4

/-- One of the two 256-byte arrays, S or K: exactly 256 entries of 8 bits (R5, R7, R50). -/
abbrev Bytes := Vector Byte 256

end Sys2Proof
end

