-- ==== Sys2Proof/Syntax.lean ====
section
/-! DEFINITION. The six commands of RC4E-CMD version 1 and the fields of a command word. -/

namespace Sys2Proof

/-- The commands (R73), one constructor per row of the opcode table. An operand is a raw byte (R72). -/
inductive Instr where
  /-- KCLR: clear the key buffer (R100). -/
  | kclr
  /-- KBYTE b: append one key byte (R101). -/
  | kbyte (b : Byte)
  /-- KSA: run the key schedule on the key buffer (R120). -/
  | ksa
  /-- GEN: return the next keystream byte (R141). -/
  | gen
  /-- XOR d: combine one data byte with the next keystream byte (R160). -/
  | xor (d : Byte)
  /-- STAT: read the status byte (R180). -/
  | stat
  deriving DecidableEq, Repr

/-- The three fields of a command word (R70), before anything is asked of them. -/
structure Fields where
  /-- Bits 15:12, the opcode. -/
  opc : Opc
  /-- Bits 11:8, reserved. -/
  rsv : BitVec 4
  /-- Bits 7:0, the operand byte. -/
  imm : Byte
  deriving DecidableEq, Repr

/-- What the decoder answers (R74): a command, or ILLEGAL with the opcode field of the word. -/
inductive Decoded where
  | command (i : Instr)
  | illegal (opc : Opc)
  deriving DecidableEq, Repr

end Sys2Proof
end

