-- ==== Sys2Proof/WellFormed.lean ====
section
/-! DEFINITION. When the fields of a command word make a legal command (R70, R73, R75). Every term of
Instr is well-formed, because its operand is a byte by type; the checks are on the fields. -/

namespace Sys2Proof

/-- The opcode map selects a command for this opcode (R73): 0x1 to 0x6. -/
def Fields.opcodeOk (f : Fields) : Bool :=
  decide (1#4 ≤ f.opc) && decide (f.opc ≤ 6#4)

/-- RSV is 0b0000 in every legal command (R70). -/
def Fields.reservedOk (f : Fields) : Bool :=
  decide (f.rsv = 0#4)

/-- IMM is an operand for KBYTE and XOR and 0x00 for every other command (R70). -/
def Fields.operandOk (f : Fields) : Bool :=
  decide (f.opc = 2#4) || decide (f.opc = 5#4) || decide (f.imm = 0#8)

/-- The three checks together: the fields are those of a legal command word. -/
def Fields.wf (f : Fields) : Bool :=
  f.opcodeOk && f.reservedOk && f.operandOk

end Sys2Proof
end

