-- ==== Sys2Proof/Decode.lean ====
section
/-! DEFINITION. The decoder, total over all 65,536 words (R74), the encoder, and the byte order of a
serialised word (R53). -/

namespace Sys2Proof

/-- OPC, bits 15:12 (R70). -/
def Word.opc (w : Word) : Opc := w.extractLsb' 12 4

/-- RSV, bits 11:8 (R70). -/
def Word.rsv (w : Word) : BitVec 4 := w.extractLsb' 8 4

/-- IMM, bits 7:0 (R70). -/
def Word.imm (w : Word) : Byte := w.extractLsb' 0 8

/-- The fields of a word (R70). -/
def Word.fields (w : Word) : Fields :=
  { opc := Word.opc w, rsv := Word.rsv w, imm := Word.imm w }

/-- The word with the given fields (R70, R10: the first of a concatenation is the high part). -/
def Fields.word (f : Fields) : Word := f.opc ++ f.rsv ++ f.imm

/-- The commands whose IMM must be 0x00, by opcode (R73, R74). -/
def operandless (opc : Opc) : Option Instr :=
  if opc = 1#4 then some .kclr
  else if opc = 3#4 then some .ksa
  else if opc = 4#4 then some .gen
  else if opc = 6#4 then some .stat
  else none

/-- R74, on the fields: a command only with RSV = 0, and with IMM = 0x00 where the command has no
operand; every other word is ILLEGAL and keeps its opcode. -/
def decodeFields (f : Fields) : Decoded :=
  if f.opc = 2#4 then
    if f.rsv = 0#4 then .command (.kbyte f.imm) else .illegal f.opc
  else if f.opc = 5#4 then
    if f.rsv = 0#4 then .command (.xor f.imm) else .illegal f.opc
  else
    match operandless f.opc with
    | some i => if f.rsv = 0#4 ∧ f.imm = 0#8 then .command i else .illegal f.opc
    | none => .illegal f.opc

/-- The decoder (R74). It reads no state. -/
def decode (w : Word) : Decoded := decodeFields (Word.fields w)

/-- The opcode of a command (R73). -/
def Instr.opc : Instr → Opc
  | .kclr => 0x1#4
  | .kbyte _ => 0x2#4
  | .ksa => 0x3#4
  | .gen => 0x4#4
  | .xor _ => 0x5#4
  | .stat => 0x6#4

/-- The IMM field of a command: its operand byte, 0x00 where it has none (R70, R72). -/
def Instr.imm : Instr → Byte
  | .kclr => 0x00#8
  | .kbyte b => b
  | .ksa => 0x00#8
  | .gen => 0x00#8
  | .xor d => d
  | .stat => 0x00#8

/-- The encoder: the one word of a command (R70, R73). -/
def encode (i : Instr) : Word := Fields.word { opc := i.opc, rsv := 0#4, imm := i.imm }

/-- A word as two bytes, the high byte (bits 15:8) first (R53, D16). -/
def Word.toBytes (w : Word) : List Byte := [w.extractLsb' 8 8, w.extractLsb' 0 8]

/-- The word two serialised bytes carry, the high byte first (R53, D16). -/
def Word.ofBytes (hi lo : Byte) : Word := hi ++ lo

/-- Decode the first word of a serialised byte stream, and give the rest of the stream. A stream of
fewer than two bytes carries no word (R76; log entry 13). -/
def decodeBytes : List Byte → Option (Decoded × List Byte)
  | hi :: lo :: rest => some (decode (Word.ofBytes hi lo), rest)
  | _ => none

/-- The command the decoder reads from a word numbered as the opcode table numbers it: bit 0 is the
least significant bit of the one 16-bit word (R70, R76). None where the word is illegal, or where more
than 16 bits are asked for (log entry 15). -/
def decodeTableWord (nbits w : Nat) : Option Instr :=
  if nbits ≤ 16 then
    match decode (BitVec.ofNat 16 (w % 2 ^ nbits)) with
    | .command i => some i
    | .illegal _ => none
  else none

end Sys2Proof
end

