-- ==== Sys2Proof/Config.lean ====
section
/-! DEFINITION. What the spec leaves open, as constants no proof can see the value of, and its fixed parameter. -/

namespace Sys2Proof.Config

/-- INIT_S (R9, R43): the contents of S after a reset, "unspecified", one draw for each number of the
first argument. A free value: no body (log entry 1). -/
opaque initS : Nat → Byte → Byte

/-- INIT_K (R9, R43): the contents of K after a reset, "unspecified", one draw for each number of the
first argument. A free value: no body (log entry 1). -/
opaque initK : Nat → Byte → Byte

/-- KMAX (R7): the key buffer holds at most 256 bytes. -/
def kmax : BitVec 9 := 256#9

end Sys2Proof.Config
end

