-- ==== Sys2Proof/Machine/Bytes.lean ====
section
/-! DEFINITION. Reading, writing and swapping entries of a 256-byte array (R12, R50, R54, R55): every
8-bit index names its entry, so no access is out of range. -/

namespace Sys2Proof

/-- The array whose entry at every index is given by `f`. -/
def Bytes.ofFn (f : Byte → Byte) : Bytes :=
  ⟨⟨(List.range 256).map fun i => f (BitVec.ofNat 8 i)⟩, by simp⟩

/-- `m[i]` (R12). -/
def Bytes.read (m : Bytes) (i : Byte) : Byte := m[i.toNat]'(i.isLt)

/-- `m[i] <- v` (R12). -/
def Bytes.write (m : Bytes) (i v : Byte) : Bytes := m.set i.toNat v i.isLt

/-- `swap(m[a], m[b])` (R12): both entries are read before either is written; nothing changes when
`a = b`. -/
def Bytes.swap (m : Bytes) (a b : Byte) : Bytes :=
  let ta := m.read a
  let tb := m.read b
  (m.write a tb).write b ta

/-- The identity: entry `x` is `x` (R121, step 1 of the KSA). -/
def Bytes.identity : Bytes := Bytes.ofFn fun x => x

end Sys2Proof
end

