-- ==== Sys2Proof/Machine/State.lean ====
section
/-! DEFINITION. The state of the engine (10_state.md R20 to R32), the pins the host drives (R37), the
reasons a step could stop, and the state after reset (R43). -/

namespace Sys2Proof.Machine

/-- PHASE (R28), the control FSM state. -/
inductive Phase where
  /-- 0b00: can accept a command. -/
  | idle
  /-- 0b01: the KSA's identity fill. -/
  | fill
  /-- 0b10: the KSA's key mixing. -/
  | mix
  /-- 0b11: a response waits for the host. -/
  | resp
  deriving DecidableEq, Repr

/-- The input pins at one rising edge of clk (R37). -/
structure Pins where
  /-- Synchronous reset, active high (R240). -/
  rst : Bool
  /-- The host offers a command word (R244). -/
  cmdValid : Bool
  /-- The command word on offer (R70). -/
  cmdData : Word
  /-- The host takes a response at this edge (R246). -/
  rspReady : Bool
  deriving DecidableEq, Repr

/-- A host that drives nothing: no reset, no command, no response taken. -/
def Pins.quiet : Pins := { rst := false, cmdValid := false, cmdData := 0#16, rspReady := false }

/-- The engine's state, each register under the spec's own name, and two fields of the model's own. -/
structure State where
  /-- The permutation, 256 entries of 8 bits (R20). -/
  S : Bytes
  /-- The key buffer, 256 entries of 8 bits (R22). -/
  K : Bytes
  /-- The number of key bytes held in K, 0 to 256 (R23). -/
  KLEN : BitVec 9
  /-- The key overflow flag (R24). -/
  KOVR : Bool
  /-- `cursor_i` (R25). -/
  CI : Byte
  /-- `cursor_j` (R26). -/
  CJ : Byte
  /-- A KSA has completed since reset (R27). -/
  RDY : Bool
  /-- The control FSM state (R28). -/
  PHASE : Phase
  /-- The KSA loop counter (R29). -/
  KC : Byte
  /-- The KSA scheduling counter j (R30). -/
  KJ : Byte
  /-- The key index (R31). -/
  KX : Byte
  /-- The response register (R32). -/
  RSP : Word
  /-- The model's own: the number of the draw INIT_S, INIT_K of the last reset (log entry 2). -/
  draw : Nat
  /-- The model's own: what the host drives at the coming edges, oldest first (log entry 3). -/
  inputs : List Pins
  deriving DecidableEq, Repr

/-- Reasons for a machine fault. The engine has none: "There are no traps", an error is a response
(R200, R204, R207). So the type has no constructor and no step faults (log entry 14). -/
inductive Fault where
  deriving DecidableEq, Repr

/-- Reasons for a refusal by the model. -/
inductive Refusal where
  /-- Raised by no arm of `exec`: it is kept for a command without a meaning, and every command has one.
  Safe: a refusal proves nothing of the hardware. -/
  | notModelled (mnemonic : String)
  deriving DecidableEq, Repr

/-- The reset values (R43). S and K are the draw of the given number (R9; log entries 1 and 10). -/
def State.resetAt (draw : Nat) (inputs : List Pins) : State where
  S := Bytes.ofFn (Config.initS draw)
  K := Bytes.ofFn (Config.initK draw)
  KLEN := 0#9
  KOVR := false
  CI := 0x00#8
  CJ := 0x00#8
  RDY := false
  PHASE := .idle
  KC := 0x00#8
  KJ := 0x00#8
  KX := 0x00#8
  RSP := 0x0000#16
  draw := draw
  inputs := inputs

/-- The machine right after reset (R43, R242), with no input listed (log entries 3 and 5). -/
def State.reset : State := State.resetAt 0 []

end Sys2Proof.Machine
end

