-- ==== Sys2Proof/Machine/Flags.lean ====
section
/-! DEFINITION. The status byte (R33), the phase encoding (R28), the response word with its ERR bit
(R71, R36) and the error codes (R78). -/

namespace Sys2Proof.Machine

/-- PHASE's encoding (R28). -/
def Phase.code : Phase → BitVec 2
  | .idle => 0b00#2
  | .fill => 0b01#2
  | .mix => 0b10#2
  | .resp => 0b11#2

/-- KEMPTY, status bit 1 (R33). -/
def State.kempty (s : State) : Bool := s.KLEN == 0#9

/-- KFULL, status bit 2 (R33). -/
def State.kfull (s : State) : Bool := s.KLEN == Config.kmax

/-- STATUS (R33): `{0b0000, KOVR, KLEN == 256, KLEN == 0, RDY}`. -/
def State.status (s : State) : Byte :=
  0b0000#4 ++ BitVec.ofBool s.KOVR ++ BitVec.ofBool s.kfull ++ BitVec.ofBool s.kempty ++
    BitVec.ofBool s.RDY

/-- The three errors (R78, R200 to R203). -/
inductive ErrorCode where
  /-- The word decodes to no command (R201). -/
  | illegal
  /-- GEN or XOR while RDY = 0 (R202). -/
  | notReady
  /-- KSA while KLEN = 0 (R203). -/
  | emptyKey
  deriving DecidableEq, Repr

/-- The code in the DATA field of an error response (R78). -/
def ErrorCode.code : ErrorCode → Byte
  | .illegal => 0x01#8
  | .notReady => 0x02#8
  | .emptyKey => 0x03#8

/-- The response word (R71): ROPC, RZ = 0b000, ERR, DATA. -/
def responseWord (opc : Opc) (err : Bool) (data : Byte) : Word :=
  opc ++ 0b000#3 ++ BitVec.ofBool err ++ data

/-- ROPC, bits 15:12 of a response (R71). -/
def Response.ropc (r : Word) : Opc := r.extractLsb' 12 4

/-- RZ, bits 11:9 of a response (R71). -/
def Response.rz (r : Word) : BitVec 3 := r.extractLsb' 9 3

/-- ERR, bit 8 of a response (R71). -/
def Response.err (r : Word) : Bool := r.getLsbD 8

/-- DATA, bits 7:0 of a response (R71). -/
def Response.data (r : Word) : Byte := r.extractLsb' 0 8

end Sys2Proof.Machine
end

