-- ==== Sys2Proof/Machine/Operands.lean ====
section
/-! DEFINITION. The indices the commands compute (20_memory.md R51). The operand of a command is its raw
IMM byte, with no extension, scaling or shift (R72), so it needs no function here. Every sum of bytes is
taken modulo 256 (R11), which is the sum of two 8-bit vectors. -/

namespace Sys2Proof.Machine

/-- `KLEN[7:0]`, the index KBYTE writes K at (R101). -/
def keyWriteIndex (klen : BitVec 9) : Byte := klen.extractLsb' 0 8

/-- KX's next value (R31): 0 when `zext_9(KX) + 1 == KLEN`, else KX + 1. -/
def nextKeyIndex (kx : Byte) (klen : BitVec 9) : Byte :=
  if kx.zeroExtend 9 + 1#9 = klen then 0x00#8 else kx + 1#8

/-- The index `t` of a MIX micro-step (R122): `KJ +8 S[KC] +8 K[KX]`. -/
def mixIndex (s : State) : Byte := s.KJ + s.S.read s.KC + s.K.read s.KX

/-- The index `t` of the keystream byte (R140, step 4): `S[CI] +8 S[CJ]`. -/
def outputIndex (s : State) : Byte := s.S.read s.CI + s.S.read s.CJ

end Sys2Proof.Machine
end

