-- ==== Sys2Proof/Machine/Ops.lean ====
section
/-! DEFINITION. The named operations over the state: entries of S and K (R12), answering a command and
raising an error (R14), delivering the response (R39) and reset (R43, R240). -/

namespace Sys2Proof.Machine

/-- `S[i] <- v` (R12). -/
def State.writeS (s : State) (i v : Byte) : State := { s with S := s.S.write i v }

/-- `swap(S[a], S[b])` (R12). -/
def State.swapS (s : State) (a b : Byte) : State := { s with S := s.S.swap a b }

/-- `K[i] <- v` (R12). -/
def State.writeK (s : State) (i v : Byte) : State := { s with K := s.K.write i v }

/-- `respond(opc, data)` (R14): the response word, ERR = 0, and PHASE <- RESP. -/
def State.respond (s : State) (opc : Opc) (data : Byte) : State :=
  { s with RSP := responseWord opc false data, PHASE := .resp }

/-- `raise E(code)` (R14, R200, R207), the engine's only exception primitive: the response word with
ERR = 1 and the code, and PHASE <- RESP. Nothing is saved, no mode changes and control goes nowhere. -/
def State.raise (s : State) (opc : Opc) (e : ErrorCode) : State :=
  { s with RSP := responseWord opc true e.code, PHASE := .resp }

/-- The response is taken: PHASE <- IDLE and nothing else (R39, R246). It ends an error response as it
ends any other: "there is no return-from-trap command, nothing to restore" (R208). -/
def State.deliver (s : State) : State := { s with PHASE := .idle }

/-- The pins at the coming edge; a quiet host where no input is listed (log entry 3). -/
def State.pins (s : State) : Pins := s.inputs.headD Pins.quiet

/-- The edge's pins are used up. -/
def State.consume (s : State) : State := { s with inputs := s.inputs.tail }

/-- An edge with rst = 1 (R240): every register takes its reset value, and S and K, "kept or arbitrary"
(R43), take the next draw (log entry 10). -/
def State.resetEdge (s : State) : State := State.resetAt (s.draw + 1) s.inputs

/-- An edge at which the host offers the word `w` to an engine that can accept it comes first: PHASE is
IDLE, and the pins offer `w` (R244; log entry 5). -/
def State.offerWord (s : State) (w : Word) : State :=
  { s with
    PHASE := .idle
    inputs := { rst := false, cmdValid := true, cmdData := w, rspReady := false } :: s.inputs }

end Sys2Proof.Machine
end

