-- ==== Sys2Proof/Machine/Prga.lean ====
section
/-! DEFINITION. Keystream generation: the PRGA step and GEN (42_prga.md). -/

namespace Sys2Proof.Machine

/-- `prga()` (R140): the state after the step and the keystream byte. Every read sees the writes before
it, so step 2 reads S at the new CI, and steps 4 and 5 read the swapped S. -/
def prga (s : State) : State × Byte :=
  let s1 := { s with CI := s.CI + 1#8 }
  let s2 := { s1 with CJ := s1.CJ + s1.S.read s1.CI }
  let s3 := s2.swapS s2.CI s2.CJ
  let t := outputIndex s3
  (s3, s3.S.read t)

/-- GEN (R141): the next keystream byte, or NOT_READY. -/
def execGen (s : State) : Host.Outcome State Fault Refusal :=
  if s.RDY = false then .next (s.raise 0x4#4 .notReady)
  else
    let r := prga s
    .next (r.1.respond 0x4#4 r.2)

end Sys2Proof.Machine
end

