-- ==== Sys2Proof/Machine/Apply.lean ====
section
/-! DEFINITION. Keystream application: XOR (43_apply.md). -/

namespace Sys2Proof.Machine

/-- XOR d (R160): the data byte combined with the next keystream byte, or NOT_READY. -/
def execXor (d : Byte) (s : State) : Host.Outcome State Fault Refusal :=
  if s.RDY = false then .next (s.raise 0x5#4 .notReady)
  else
    let r := prga s
    .next (r.1.respond 0x5#4 (d ^^^ r.2))

end Sys2Proof.Machine
end

