-- ==== Sys2Proof/Machine/KeyLoad.lean ====
section
/-! DEFINITION. Key loading: KCLR and KBYTE (40_key_load.md). -/

namespace Sys2Proof.Machine

/-- KCLR (R100): KLEN and KOVR are cleared; the entries of K are not erased. -/
def execKclr (s : State) : Host.Outcome State Fault Refusal :=
  .next ({ s with KLEN := 0#9, KOVR := false }.respond 0x1#4 0x00#8)

/-- KBYTE b (R101): append the byte while KLEN < 256, else discard it and set KOVR. -/
def execKbyte (b : Byte) (s : State) : Host.Outcome State Fault Refusal :=
  let t :=
    if s.KLEN < Config.kmax then
      { s.writeK (keyWriteIndex s.KLEN) b with KLEN := s.KLEN + 1#9 }
    else { s with KOVR := true }
  .next (t.respond 0x2#4 0x00#8)

end Sys2Proof.Machine
end

