-- ==== Sys2Proof/Machine/Ksa.lean ====
section
/-! DEFINITION. Key scheduling: the KSA command and the two micro-steps of its counter FSM (41_ksa.md). -/

namespace Sys2Proof.Machine

/-- KSA (R120), at the accepting edge: refused with EMPTY_KEY when KLEN = 0, else the schedule starts and
the response comes from the last MIX micro-step (R122). -/
def execKsa (s : State) : Host.Outcome State Fault Refusal :=
  if s.KLEN = 0#9 then .next (s.raise 0x3#4 .emptyKey)
  else .next { s with RDY := false, CI := 0x00#8, CJ := 0x00#8, KC := 0x00#8, PHASE := .fill }

/-- The FILL micro-step (R121): step 1 of the KSA, one entry of the identity per edge. -/
def fillStep (s : State) : State :=
  let s1 := s.writeS s.KC s.KC
  let s2 := if s1.KC = 0xFF#8 then { s1 with KJ := 0x00#8, KX := 0x00#8, PHASE := .mix } else s1
  { s2 with KC := s2.KC + 1#8 }

/-- The MIX micro-step (R122): one iteration of step 2 of the KSA, with `i` = KC and the key byte K[KX];
the last one sets RDY and answers the command. -/
def mixStep (s : State) : State :=
  let t := mixIndex s
  let s1 := s.swapS s.KC t
  let s2 := { s1 with KJ := t, KX := nextKeyIndex s1.KX s1.KLEN }
  let s3 := if s2.KC = 0xFF#8 then { s2 with RDY := true }.respond 0x3#4 0x00#8 else s2
  { s3 with KC := s3.KC + 1#8 }

end Sys2Proof.Machine
end

