-- ==== Sys2Proof/Machine/Status.lean ====
section
/-! DEFINITION. Status and illegal words: STAT and the effect of a word that decodes to no command
(44_status.md). -/

namespace Sys2Proof.Machine

/-- STAT (R180): the status byte of R33. -/
def execStat (s : State) : Host.Outcome State Fault Refusal :=
  .next (s.respond 0x6#4 s.status)

/-- An illegal word (R181): an ILLEGAL response that echoes the word's opcode field, and nothing else. -/
def execIllegal (opc : Opc) (s : State) : Host.Outcome State Fault Refusal :=
  .next (s.raise opc .illegal)

end Sys2Proof.Machine
end

