-- ==== Sys2Proof/Machine/Dispatch.lean ====
section
/-! DEFINITION. One arm per command (R39: "the rule of the decoded command"). -/

namespace Sys2Proof.Machine

/-- The block of a decoded command, at the edge that accepts it. -/
def exec (i : Instr) (s : State) : Host.Outcome State Fault Refusal :=
  match i with
  | .kclr => Sys2Proof.Machine.execKclr s
  | .kbyte b => Sys2Proof.Machine.execKbyte b s
  | .ksa => Sys2Proof.Machine.execKsa s
  | .gen => Sys2Proof.Machine.execGen s
  | .xor d => Sys2Proof.Machine.execXor d s
  | .stat => Sys2Proof.Machine.execStat s

end Sys2Proof.Machine
end

