-- ==== Sys2Proof/Machine/Clock.lean ====
section
/-! DEFINITION. One rising edge of clk (10_state.md R39, 60_exceptions.md R206). -/

namespace Sys2Proof.Machine

/-- `execute(cmd_data)` (R39): decode, then the rule of the command, or R181 for an illegal word. -/
def acceptWord (w : Word) (s : State) : Host.Outcome State Fault Refusal :=
  match decode w with
  | .command i => exec i s
  | .illegal opc => execIllegal opc s

/-- What the engine does at an edge with rst = 0, by PHASE (R39). -/
def phaseEdge (p : Pins) (s : State) : Host.Outcome State Fault Refusal :=
  match s.PHASE with
  | .idle => if p.cmdValid then acceptWord p.cmdData s else .next s
  | .fill => .next (fillStep s)
  | .mix => .next (mixStep s)
  | .resp => if p.rspReady then .next s.deliver else .next s

/-- One edge: the pins are sampled; reset comes first, whatever the phase (R39, R206, R240). -/
def clockEdge (s : State) : Host.Outcome State Fault Refusal :=
  if s.pins.rst then .next s.consume.resetEdge else phaseEdge s.pins s.consume

end Sys2Proof.Machine
end

