-- ==== Sys2Proof/Machine/Step.lean ====
section
/-! DEFINITION. The step of the machine: one rising edge of clk (R39). -/

namespace Sys2Proof.Machine

/-- One step is one rising edge. -/
def step (s : State) : Host.Outcome State Fault Refusal := clockEdge s

/-- The state in which the next step accepts and runs the word whose bits are `w` (log entry 5): the host
offers it at the very next edge, and PHASE is IDLE. -/
def State.withFetchWord (s : State) (nbits w : Nat) : State :=
  s.offerWord (BitVec.ofNat 16 (w % 2 ^ nbits))

end Sys2Proof.Machine
end

