-- ==== Sys2Proof/Machine/Assembler.lean ====
section
/-! DEFINITION. The assembler syntax of the spec and its pseudo-instructions (30_encoding.md R79, R80).
Host software: the engine itself never sees text (log entry 11). -/

namespace Sys2Proof.Machine

/-- One source line (R79, R80). -/
inductive Line where
  /-- A comment or an empty line. -/
  | blank
  /-- A command. -/
  | command (i : Instr)
  /-- `.word 0xNNNN`: any word as it is, legal or illegal. -/
  | word (w : Word)
  /-- `KEY b0, …` -/
  | key (bs : List Byte)
  /-- `INIT b0, …` -/
  | init (bs : List Byte)
  /-- `APPLY d0, …` -/
  | apply (ds : List Byte)
  /-- `GENN m` -/
  | genn (m : Nat)
  deriving DecidableEq, Repr

/-- KEY's expansion (R80): KCLR, then one KBYTE per byte. -/
def expandKey (bs : List Byte) : List Instr := .kclr :: bs.map .kbyte

/-- INIT's expansion (R80): KEY, then KSA. -/
def expandInit (bs : List Byte) : List Instr := expandKey bs ++ [.ksa]

/-- APPLY's expansion (R80): one XOR per byte. -/
def expandApply (ds : List Byte) : List Instr := ds.map .xor

/-- GENN's expansion (R80): copies of GEN. -/
def expandGenn (m : Nat) : List Instr := List.replicate m .gen

/-- The words of a line, in order (R79, R80). -/
def Line.words : Line → List Word
  | .blank => []
  | .command i => [encode i]
  | .word w => [w]
  | .key bs => (expandKey bs).map encode
  | .init bs => (expandInit bs).map encode
  | .apply ds => (expandApply ds).map encode
  | .genn m => (expandGenn m).map encode

/-- The words of a program, line after line. -/
def assemble (ls : List Line) : List Word := ls.flatMap Line.words

/-- The byte of a quoted character: its ASCII code (R10, G1); none outside ASCII (log entry 12). -/
def charByte (c : Char) : Option Byte :=
  if c.toNat < 128 then some (BitVec.ofNat 8 c.toNat) else none

/-- A token of a source line. -/
inductive Token where
  | name (cs : List Char)
  | dec (n : Nat)
  /-- A hex literal, with the number of its digits. -/
  | hex (n digits : Nat)
  | chr (c : Char)
  | str (cs : List Char)
  | comma
  deriving DecidableEq, Repr

/-- Where the reading of a line stands; an accumulated list of characters is newest first. -/
inductive LexState where
  | start
  | inName (cs : List Char)
  /-- After the digit 0, which may begin a hex literal. -/
  | zero
  | inDec (n : Nat)
  | inHex (n digits : Nat)
  | openChr
  | closeChr (c : Char)
  | inStr (cs : List Char)
  deriving DecidableEq, Repr

/-- The value of a decimal digit. -/
def decDigit (c : Char) : Option Nat :=
  if '0' ≤ c ∧ c ≤ '9' then some (c.toNat - 48) else none

/-- The value of a hexadecimal digit. -/
def hexDigit (c : Char) : Option Nat :=
  if '0' ≤ c ∧ c ≤ '9' then some (c.toNat - 48)
  else if 'A' ≤ c ∧ c ≤ 'F' then some (c.toNat - 55)
  else if 'a' ≤ c ∧ c ≤ 'f' then some (c.toNat - 87)
  else none

/-- A character of a mnemonic or of `.word`. -/
def isNameChar (c : Char) : Bool :=
  decide ('A' ≤ c ∧ c ≤ 'Z') || decide ('a' ≤ c ∧ c ≤ 'z') || decide (c = '.')

/-- The token a state holds at a token's end: none where the text breaks off inside a token, and the
empty list where there is no token. -/
def LexState.flush : LexState → Option (List Token)
  | .start => some []
  | .inName cs => some [.name cs.reverse]
  | .zero => some [.dec 0]
  | .inDec n => some [.dec n]
  | .inHex n d => if d = 0 then none else some [.hex n d]
  | .openChr => none
  | .closeChr _ => none
  | .inStr _ => none

/-- The tokens of a line (R79): `;` begins a comment, outside quotes. -/
def lex : List Char → LexState → Option (List Token)
  | [], st => st.flush
  | c :: cs, .inStr acc =>
    if c = '"' then (lex cs .start).map (.str acc.reverse :: ·) else lex cs (.inStr (c :: acc))
  | c :: cs, .openChr => lex cs (.closeChr c)
  | c :: cs, .closeChr d => if c = '\'' then (lex cs .start).map (.chr d :: ·) else none
  | c :: cs, st =>
    let separated (next : LexState) : Option (List Token) :=
      match st.flush, lex cs next with
      | some ts, some rest => some (ts ++ rest)
      | _, _ => none
    if c = ';' then st.flush
    else if c = ' ' ∨ c = '\t' then separated .start
    else if c = ',' then
      match st.flush, lex cs .start with
      | some ts, some rest => some (ts ++ .comma :: rest)
      | _, _ => none
    else
      match st with
      | .start =>
        if c = '"' then lex cs (.inStr [])
        else if c = '\'' then lex cs .openChr
        else if c = '0' then lex cs .zero
        else match decDigit c with
          | some d => lex cs (.inDec d)
          | none => if isNameChar c then lex cs (.inName [c]) else none
      | .inName acc => if isNameChar c then lex cs (.inName (c :: acc)) else none
      | .zero =>
        if c = 'x' then lex cs (.inHex 0 0)
        else (decDigit c).bind fun d => lex cs (.inDec d)
      | .inDec n => (decDigit c).bind fun d => lex cs (.inDec (10 * n + d))
      | .inHex n k => (hexDigit c).bind fun d => lex cs (.inHex (16 * n + d) (k + 1))
      | .openChr => none
      | .closeChr _ => none
      | .inStr _ => none

/-- A byte operand: a hex literal, a decimal literal or a quoted character (R79). -/
def Token.byte : Token → Option Byte
  | .dec n => if n < 256 then some (BitVec.ofNat 8 n) else none
  | .hex n _ => if n < 256 then some (BitVec.ofNat 8 n) else none
  | .chr c => charByte c
  | .name _ => none
  | .str _ => none
  | .comma => none

/-- Bytes after the first, each after a comma (R80). -/
def moreBytes : List Token → Option (List Byte)
  | [] => some []
  | .comma :: t :: ts => (t.byte).bind fun b => (moreBytes ts).map (b :: ·)
  | _ => none

/-- The operand of KEY, INIT and APPLY: bytes separated by commas, a quoted string, or nothing (R80). -/
def byteList : List Token → Option (List Byte)
  | [] => some []
  | [.str cs] => cs.mapM charByte
  | t :: ts => (t.byte).bind fun b => (moreBytes ts).map (b :: ·)

/-- One line of tokens: the mnemonic, then its operands (R79, R80). -/
def parseTokens : List Token → Option Line
  | [] => some .blank
  | .name n :: ts =>
    if n = ['K', 'C', 'L', 'R'] then if ts = [] then some (.command .kclr) else none
    else if n = ['K', 'S', 'A'] then if ts = [] then some (.command .ksa) else none
    else if n = ['G', 'E', 'N'] then if ts = [] then some (.command .gen) else none
    else if n = ['S', 'T', 'A', 'T'] then if ts = [] then some (.command .stat) else none
    else if n = ['K', 'B', 'Y', 'T', 'E'] then
      match ts with
      | [t] => (t.byte).map fun b => .command (.kbyte b)
      | _ => none
    else if n = ['X', 'O', 'R'] then
      match ts with
      | [t] => (t.byte).map fun d => .command (.xor d)
      | _ => none
    else if n = ['.', 'w', 'o', 'r', 'd'] then
      match ts with
      | [.hex v 4] => some (.word (BitVec.ofNat 16 v))
      | _ => none
    else if n = ['K', 'E', 'Y'] then (byteList ts).map .key
    else if n = ['I', 'N', 'I', 'T'] then (byteList ts).map .init
    else if n = ['A', 'P', 'P', 'L', 'Y'] then (byteList ts).map .apply
    else if n = ['G', 'E', 'N', 'N'] then
      match ts with
      | [.dec m] => some (.genn m)
      | _ => none
    else none
  | _ => none

/-- Read one source line (R79, R80); none where it is no line of the syntax. -/
def parseLine (cs : List Char) : Option Line := (lex cs .start).bind parseTokens

end Sys2Proof.Machine
end

