-- ==== Sys2Proof/Machine/Ports.lean ====
section
/-! DEFINITION. The output pins (R38) and what crosses the ports at an edge (R244, R246). -/

namespace Sys2Proof.Machine

/-- The output pins (R37). -/
structure Outputs where
  cmdReady : Bool
  rspValid : Bool
  rspData : Word
  deriving DecidableEq, Repr

/-- The outputs depend only on the state and rst (R38). -/
def outputs (s : State) (rst : Bool) : Outputs where
  cmdReady := decide (s.PHASE = .idle) && !rst
  rspValid := decide (s.PHASE = .resp) && !rst
  rspData := s.RSP

/-- The output pins at the coming edge. -/
def State.outputsNow (s : State) : Outputs := outputs s s.pins.rst

/-- The word transferred on the command port at the coming edge, where there is one (R244): cmd_valid and
cmd_ready are both 1. -/
def State.accepted (s : State) : Option Word :=
  if s.pins.cmdValid && s.outputsNow.cmdReady then some s.pins.cmdData else none

/-- The word transferred on the response port at the coming edge, where there is one (R246): rsp_valid
and rsp_ready are both 1. -/
def State.delivered (s : State) : Option Word :=
  if s.outputsNow.rspValid && s.pins.rspReady then some s.outputsNow.rspData else none

end Sys2Proof.Machine
end

