-- ==== Sys2Proof/Machine/Reference.lean ====
section
/-! DEFINITION. The document's Cipher Engine as the spec quotes it (41_ksa.md, 42_prga.md, 43_apply.md):
Initialize, NextKeystreamByte and ApplyKeystream on a cipher state. The hardware is compared with it; the
machine does not use it. -/

namespace Sys2Proof.Reference

/-- The document's cipher state: "the permutation and the two cursors" (10_state.md). -/
structure Cipher where
  permutation : Bytes
  cursorI : Byte
  cursorJ : Byte
  deriving DecidableEq, Repr

/-- One iteration of step 2 of the KSA (quoted at the head of 41_ksa.md): `j = (j + permutation[i] +
key[i mod key_length]) mod 256`, then the swap. -/
def scheduleRound (key : List Byte) (p : Bytes × Byte) (i : Nat) : Bytes × Byte :=
  let x := BitVec.ofNat 8 i
  let j := p.2 + p.1.read x + key.getD (i % key.length) 0x00#8
  (p.1.swap x j, j)

/-- Steps 1 and 2 of the KSA: the permutation and the last j after the first `n` iterations. -/
def scheduleUpTo (key : List Byte) (n : Nat) : Bytes × Byte :=
  (List.range n).foldl (scheduleRound key) (Bytes.identity, 0x00#8)

/-- The permutation and the last j of the whole schedule. -/
def schedule (key : List Byte) : Bytes × Byte := scheduleUpTo key 256

/-- Initialize(key). The empty key is a precondition violation and gives no state (I1; log entry 16). -/
def initCipher (key : List Byte) : Option Cipher :=
  if key = [] then none
  else some { permutation := (schedule key).1, cursorI := 0x00#8, cursorJ := 0x00#8 }

/-- NextKeystreamByte(state): steps 1 to 5 of the PRGA (quoted at the head of 42_prga.md). -/
def nextKeystreamByte (c : Cipher) : Cipher × Byte :=
  let i := c.cursorI + 1#8
  let j := c.cursorJ + c.permutation.read i
  let p := c.permutation.swap i j
  ({ permutation := p, cursorI := i, cursorJ := j }, p.read (p.read i + p.read j))

/-- ApplyKeystream(state, data): each byte, in order, is replaced by its XOR with the next keystream
byte (quoted at the head of 43_apply.md). -/
def applyKeystream (c : Cipher) : List Byte → Cipher × List Byte
  | [] => (c, [])
  | d :: ds =>
    let n := nextKeystreamByte c
    let r := applyKeystream n.1 ds
    (r.1, (d ^^^ n.2) :: r.2)

end Sys2Proof.Reference
end

