-- ==== Sys2Proof/Machine/Trace.lean ====
section
/-! DEFINITION. What crosses the two ports over a number of edges (R40, R244, R246). -/

namespace Sys2Proof.Machine

/-- The words accepted and the responses delivered over the next `n` edges, oldest first. -/
def trace : Nat → State → List Word × List Word
  | 0, _ => ([], [])
  | n + 1, s =>
    match step s with
    | .next t =>
      let r := trace n t
      (s.accepted.toList ++ r.1, s.delivered.toList ++ r.2)
    | .fault _ => ([], [])
    | .refused _ => ([], [])

end Sys2Proof.Machine
end

