-- ==== Sys2Proof/Machine/Transaction.lean ====
section
/-! DEFINITION. The transaction-level view (10_state.md R40): one command run to its response, clock
cycles left out. -/

namespace Sys2Proof.Machine

/-- A FILL or MIX micro-step where PHASE asks for one (R39, with rst = 0); nothing in IDLE and RESP. -/
def microStep (s : State) : State :=
  match s.PHASE with
  | .idle => s
  | .fill => fillStep s
  | .mix => mixStep s
  | .resp => s

/-- `n` micro-steps. -/
def microSteps : Nat → State → State
  | 0, s => s
  | n + 1, s => microSteps n (microStep s)

/-- R40's `exec`: the accept block of the word, then the 256 FILL and 256 MIX micro-steps that a KSA
started, to the state that holds the response. -/
def transact (w : Word) (s : State) : Host.Outcome State Fault Refusal :=
  match acceptWord w s with
  | .next t => .next (microSteps 512 t)
  | .fault r => .fault r
  | .refused r => .refused r

/-- A sequence of command words, each run to its response and the response taken: the last state and the
responses, one per word, in order (R40, R56). -/
def runCommands : List Word → State → Host.Outcome (State × List Word) Fault Refusal
  | [], s => .next (s, [])
  | w :: ws, s =>
    match transact w s with
    | .next t =>
      match runCommands ws t.deliver with
      | .next (u, rs) => .next (u, t.RSP :: rs)
      | .fault r => .fault r
      | .refused r => .refused r
    | .fault r => .fault r
    | .refused r => .refused r

end Sys2Proof.Machine
end

