-- ==== Sys2Proof/Safety.lean ====
section
/-! DEFINITION. The terms claims are stated in: the permutation invariant (R21), the state invariants
(R42), when two states look the same from outside (R41), and readings of command and response lists. -/

namespace Sys2Proof

/-- The array holds each of the 256 byte values exactly once (R21). -/
def Bytes.IsPermutation (m : Bytes) : Prop := ∀ v : Byte, ∃! i : Byte, m.read i = v

namespace Machine

/-- The state invariants (R42), with the reach of R21 and the reason R180 gives for the values of STATUS. -/
structure State.Inv (s : State) : Prop where
  /-- R42, item 1. -/
  klen_le : s.KLEN ≤ 256#9
  /-- "KOVR = 1 only when KLEN = 256" (R180). -/
  kovr_full : s.KOVR = true → s.KLEN = 256#9
  /-- R42, item 2. -/
  schedule_control : s.PHASE = .fill ∨ s.PHASE = .mix →
    s.KLEN ≠ 0#9 ∧ s.RDY = false ∧ s.CI = 0#8 ∧ s.CJ = 0#8
  /-- R42, item 3. -/
  fill_identity : s.PHASE = .fill → ∀ x : Byte, x < s.KC → s.S.read x = x
  /-- R42, item 4. -/
  mix_index : s.PHASE = .mix → s.KX.toNat = s.KC.toNat % s.KLEN.toNat
  /-- R42, item 5; R21. -/
  ready_permutation : s.RDY = true → s.S.IsPermutation
  /-- "This also holds throughout phase MIX" (R21). -/
  mix_permutation : s.PHASE = .mix → s.S.IsPermutation

/-- The two states agree in all but what R41 says is never observed: S while RDY = 0 outside MIX (in FILL,
the entries not yet filled), entries of K at and above KLEN, and which draws they took. -/
structure SameView (s t : State) : Prop where
  klen : s.KLEN = t.KLEN
  kovr : s.KOVR = t.KOVR
  ci : s.CI = t.CI
  cj : s.CJ = t.CJ
  rdy : s.RDY = t.RDY
  phase : s.PHASE = t.PHASE
  kc : s.KC = t.KC
  kj : s.KJ = t.KJ
  kx : s.KX = t.KX
  rsp : s.RSP = t.RSP
  inputs : s.inputs = t.inputs
  stream : s.RDY = true ∨ s.PHASE = .mix → s.S = t.S
  filled : s.PHASE = .fill → ∀ x : Byte, x < s.KC → s.S.read x = t.S.read x
  key : ∀ x : Byte, x.toNat < s.KLEN.toNat → s.K.read x = t.K.read x

/-- The host asserts no reset at the listed edges. -/
def NoReset (ps : List Pins) : Prop := ∀ p ∈ ps, p.rst = false

/-- An edge at which the host, without a reset, offers the word. -/
def Pins.offers (p : Pins) (w : Word) : Prop := p.rst = false ∧ p.cmdValid = true ∧ p.cmdData = w

/-- The key the next KSA schedules: the first KLEN entries of K (R102). -/
def State.keyList (s : State) : List Byte := s.K.toList.take s.KLEN.toNat

/-- The document's cipher state, as the engine holds it. -/
def State.cipher (s : State) : Reference.Cipher :=
  { permutation := s.S, cursorI := s.CI, cursorJ := s.CJ }

/-- The key byte of a KBYTE word. -/
def keyByte? (w : Word) : Option Byte :=
  match decode w with
  | .command (.kbyte b) => some b
  | _ => none

/-- The key bytes a list of words sends, in order. -/
def keyBytes (ws : List Word) : List Byte := ws.filterMap keyByte?

/-- The word is an XOR command. -/
def isXorWord (w : Word) : Bool :=
  match decode w with
  | .command (.xor _) => true
  | _ => false

/-- The responses to the XOR words of a list, in order. -/
def xorResponses (ws rs : List Word) : List Word :=
  (ws.zip rs).filterMap fun p => if isXorWord p.1 then some p.2 else none

/-- The response says that a GEN or an XOR was performed (R71). -/
def isKeystreamResponse (r : Word) : Bool :=
  !Response.err r && (decide (Response.ropc r = 0x4#4) || decide (Response.ropc r = 0x5#4))

/-- The words of a list of commands. -/
def words (is : List Instr) : List Word := is.map encode

end Machine

end Sys2Proof
end

