-- ==== Sys2Proof/Certificates/Slice0/Obligations.lean ====
section
/-! DEFINITION. The statements for the provers. -/

open Sys2Proof
open Sys2Proof.Machine

/-! ### Encoding -/

/-- Decoding an encoded command gives the command back, whatever its operand (30_encoding.md). -/
def Obligations.DecodeOfEncode : Prop := ∀ i : Instr, decode (encode i) = .command i

/-- A word that decodes to a command is that command's one encoding (30_encoding.md). -/
def Obligations.EncodeOfDecode : Prop := ∀ (w : Word) (i : Instr), decode w = .command i → encode i = w

/-- R73: each row of the opcode map is selected exactly by its match and mask, and OPC 0x0 and 0x7 to 0xF
select none. -/
def Obligations.DecodeFollowsTheOpcodeMap : Prop :=
  ∀ w : Word,
    (decode w = .command .kclr ↔ w &&& 0xFFFF#16 = 0x1000#16) ∧
    (∀ b, decode w = .command (.kbyte b) ↔ w &&& 0xFF00#16 = 0x2000#16 ∧ w.extractLsb' 0 8 = b) ∧
    (decode w = .command .ksa ↔ w &&& 0xFFFF#16 = 0x3000#16) ∧
    (decode w = .command .gen ↔ w &&& 0xFFFF#16 = 0x4000#16) ∧
    (∀ d, decode w = .command (.xor d) ↔ w &&& 0xFF00#16 = 0x5000#16 ∧ w.extractLsb' 0 8 = d) ∧
    (decode w = .command .stat ↔ w &&& 0xFFFF#16 = 0x6000#16) ∧
    (w.extractLsb' 12 4 = 0x0#4 ∨ 0x7#4 ≤ w.extractLsb' 12 4 → decode w = .illegal (w.extractLsb' 12 4))

/-- R75: a word that decodes to no command is illegal; those are the words with OPC 0x0 or 0x7 to 0xF, a
nonzero RSV, or a nonzero IMM on KCLR, KSA, GEN or STAT. It gets an ILLEGAL response and nothing else
changes. The all-zero word is one of them. -/
def Obligations.WordsOutsideTheMapAreIllegal : Prop :=
  (∀ w : Word, (¬ ∃ i, decode w = .command i) ↔
    (w.extractLsb' 12 4 = 0x0#4 ∨ 0x7#4 ≤ w.extractLsb' 12 4 ∨ w.extractLsb' 8 4 ≠ 0#4 ∨
      (w.extractLsb' 0 8 ≠ 0#8 ∧ w.extractLsb' 12 4 ≠ 0x2#4 ∧ w.extractLsb' 12 4 ≠ 0x5#4))) ∧
  (∀ (w : Word) (s : State), (¬ ∃ i, decode w = .command i) →
    decode w = .illegal (w.extractLsb' 12 4) ∧
    acceptWord w s =
      .next { s with RSP := w.extractLsb' 12 4 ++ 0b000#3 ++ 0b1#1 ++ 0x01#8, PHASE := .resp }) ∧
  decode 0x0000#16 = .illegal 0x0#4

/-- Words written out from the spec's encoding decode to what the spec says they are (R79's examples). -/
def Obligations.WrittenWordsDecode : Prop :=
  decode 0x1000#16 = .command .kclr ∧ decode 0x204B#16 = .command (.kbyte 0x4B#8) ∧
  decode 0x3000#16 = .command .ksa ∧ decode 0x4000#16 = .command .gen ∧
  decode 0x5050#16 = .command (.xor 0x50#8) ∧ decode 0x6000#16 = .command .stat ∧
  decode 0x2100#16 = .illegal 0x2#4 ∧ decode 0xF2AB#16 = .illegal 0xF#4

/-- R53 (its sentence on serialised words): the high byte comes first, and a byte stream is read so. -/
def Obligations.SerialisedWordHighByteFirst : Prop :=
  (∀ hi lo : Byte, Word.toBytes (hi ++ lo : Word) = [hi, lo]) ∧
  ∀ (w : Word) (rest : List Byte), decodeBytes (Word.toBytes w ++ rest) = some (decode w, rest)

/-- R80: the expansion of each pseudo-instruction, and of INIT with no bytes its answer. -/
def Obligations.PseudoInstructionsExpand : Prop :=
  (∀ bs, expandKey bs = [.kclr] ++ bs.map .kbyte) ∧
  (∀ bs, expandInit bs = [.kclr] ++ bs.map .kbyte ++ [.ksa]) ∧
  (∀ ds, expandApply ds = ds.map .xor) ∧ (∀ m, expandGenn m = List.replicate m .gen) ∧
  expandApply [] = [] ∧ expandGenn 0 = [] ∧ expandKey [] = [.kclr] ∧ expandInit [] = [.kclr, .ksa] ∧
  ∀ s, ∃ t, runCommands (words (expandInit [])) s = .next (t, [0x1000#16, 0x3103#16])

/-! ### Responses -/

/-- R71, R77, R78: every word, from every state, is answered by one response. It carries the word's OPC,
RZ = 0, and the result of R77 or the error code of R78; the KSA's comes when the schedule has completed. -/
def Obligations.EveryWordIsAnswered : Prop :=
  ∀ (w : Word) (s : State), ∃ t, transact w s = .next t ∧ t.PHASE = .resp ∧
    t.RSP.extractLsb' 12 4 = w.extractLsb' 12 4 ∧ t.RSP.extractLsb' 9 3 = 0b000#3 ∧
    (t.RSP.getLsbD 8, t.RSP.extractLsb' 0 8) =
      match decode w with
      | .illegal _ => (true, 0x01#8)
      | .command .kclr => (false, 0x00#8)
      | .command (.kbyte _) => (false, 0x00#8)
      | .command .ksa => if s.KLEN = 0#9 then (true, 0x03#8) else (false, 0x00#8)
      | .command .gen => if s.RDY = false then (true, 0x02#8) else (false, (prga s).2)
      | .command (.xor d) => if s.RDY = false then (true, 0x02#8) else (false, d ^^^ (prga s).2)
      | .command .stat => (false, s.status)

/-- R56 (its sentence on responses): exactly one response per command, in acceptance order. -/
def Obligations.OneResponsePerWordInOrder : Prop :=
  ∀ (ws : List Word) (s : State), ∃ t rs, runCommands ws s = .next (t, rs) ∧
    rs.map (fun r => r.extractLsb' 12 4) = ws.map (fun w => w.extractLsb' 12 4) ∧
    (ws ≠ [] → t.PHASE = .idle)

/-! ### Key loading -/

/-- R100: KCLR's one encoding, its whole effect, the status bits after it, KCLR twice, and the STAT that
follows. -/
def Obligations.KclrEmptiesTheKeyBuffer : Prop :=
  (∀ w : Word, decode w = .command .kclr ↔ w = 0x1000#16) ∧
  (∀ w : Word, w.extractLsb' 12 4 = 0x1#4 → w ≠ 0x1000#16 → decode w = .illegal 0x1#4) ∧
  ∀ s : State,
    exec .kclr s = .next { s with KLEN := 0#9, KOVR := false, RSP := 0x1000#16, PHASE := .resp } ∧
    ∃ t, exec .kclr s = .next t ∧ t.kempty = true ∧ t.kfull = false ∧ exec .kclr t.deliver = .next t ∧
      exec .stat t.deliver =
        .next { t with RSP := if s.RDY = true then 0x6003#16 else 0x6002#16, PHASE := .resp }

/-- R101: KBYTE's encodings and its whole effect: while KLEN < 256 the byte goes to K[KLEN] and KLEN grows
by one; else the byte is discarded and KOVR is set. -/
def Obligations.KbyteAppendsOrDiscards : Prop :=
  (∀ (w : Word) (b : Byte), decode w = .command (.kbyte b) ↔ w = 0x2000#16 ||| b.zeroExtend 16) ∧
  (∀ w : Word, 0x2100#16 ≤ w → w ≤ 0x2FFF#16 → decode w = .illegal 0x2#4) ∧
  ∀ (b : Byte) (s : State),
    (s.KLEN < 256#9 → exec (.kbyte b) s =
      .next { s with K := s.K.write (s.KLEN.extractLsb' 0 8) b, KLEN := s.KLEN + 1#9,
                     RSP := 0x2000#16, PHASE := .resp }) ∧
    (¬ s.KLEN < 256#9 → exec (.kbyte b) s =
      .next { s with KOVR := true, RSP := 0x2000#16, PHASE := .resp })

/-- R102: after n KBYTEs, with any words but KCLR among them, from an empty key buffer (what KCLR and reset
leave), KLEN is min(n, 256), K holds the first bytes sent, and KOVR says that there were more than 256. -/
def Obligations.KeyBufferHoldsTheKeySent : Prop :=
  ∀ (ws : List Word) (s : State),
    (∀ w ∈ ws, decode w ≠ .command .kclr) → s.KLEN = 0#9 → s.KOVR = false →
    ∃ t rs, runCommands ws s = .next (t, rs) ∧
      t.KLEN.toNat = min (keyBytes ws).length 256 ∧
      (∀ x : Byte, x.toNat < min (keyBytes ws).length 256 → (keyBytes ws)[x.toNat]? = some (t.K.read x)) ∧
      (t.KOVR = true ↔ 256 < (keyBytes ws).length)

/-- R103 (its first sentence): KCLR and KBYTE neither write nor read S, CI, CJ or RDY: with other values
there, they do the same to the rest. -/
def Obligations.KeyLoadingIsApartFromTheStream : Prop :=
  ∀ (i : Instr) (s t : State), (i = .kclr ∨ ∃ b, i = .kbyte b) → exec i s = .next t →
    t.S = s.S ∧ t.CI = s.CI ∧ t.CJ = s.CJ ∧ t.RDY = s.RDY ∧
    ∀ (m : Bytes) (ci cj : Byte) (rdy : Bool),
      exec i { s with S := m, CI := ci, CJ := cj, RDY := rdy } =
        .next { t with S := m, CI := ci, CJ := cj, RDY := rdy }

/-- R248 (its second sentence): with only KCLR and KBYTE words before it, GEN or XOR still answers with the
byte the running stream would have given without them. -/
def Obligations.RekeyingDrawsFromTheOldStream : Prop :=
  ∀ (ws : List Word) (w : Word) (s : State), s.RDY = true →
    (∀ v ∈ ws, decode v = .command .kclr ∨ ∃ b, decode v = .command (.kbyte b)) →
    (decode w = .command .gen ∨ ∃ d, decode w = .command (.xor d)) →
    ∃ t u rs r, runCommands (ws ++ [w]) s = .next (t, rs ++ [r]) ∧ runCommands [w] s = .next (u, [r]) ∧
      t.cipher = u.cipher

/-! ### Key scheduling -/

/-- R120's block for a key that is not empty: the schedule starts, and nothing is answered yet. -/
def Obligations.KsaStartsTheSchedule : Prop :=
  ∀ s : State, s.KLEN ≠ 0#9 → exec .ksa s =
    .next { s with RDY := false, CI := 0x00#8, CJ := 0x00#8, KC := 0x00#8, PHASE := .fill }

/-- R203: a KSA with KLEN = 0 is answered 0x3103 and changes nothing else. -/
def Obligations.KsaRefusesAnEmptyKey : Prop :=
  ∀ s : State, s.KLEN = 0#9 → exec .ksa s = .next { s with RSP := 0x3103#16, PHASE := .resp }

/-- R121: one FILL micro-step, whatever the pins but rst, and what 256 of them leave. -/
def Obligations.FillMakesTheIdentity : Prop :=
  (∀ (p : Pins) (rest : List Pins) (s : State), p.rst = false → s.PHASE = .fill → s.inputs = p :: rest →
    step s = .next (if s.KC = 0xFF#8
      then { s with S := s.S.write s.KC s.KC, KJ := 0x00#8, KX := 0x00#8, KC := 0x00#8, PHASE := .mix,
                    inputs := rest }
      else { s with S := s.S.write s.KC s.KC, KC := s.KC + 1#8, inputs := rest })) ∧
  ∀ s : State, s.PHASE = .fill → s.KC = 0x00#8 → ∃ m : Bytes, (∀ x, m.read x = x) ∧
    microSteps 256 s = { s with S := m, KJ := 0x00#8, KX := 0x00#8, KC := 0x00#8, PHASE := .mix }

/-- R122: one MIX micro-step, whatever the pins but rst: the two entries change places (none changes when
`t = KC`), KJ takes `t`, KX the next key index, KC counts, and the last one sets RDY and answers 0x3000. -/
def Obligations.MixSwapsTwoEntries : Prop :=
  ∀ (p : Pins) (rest : List Pins) (s : State), p.rst = false → s.PHASE = .mix → s.inputs = p :: rest →
    ∃ (m : Bytes) (t : Byte), t = s.KJ + s.S.read s.KC + s.K.read s.KX ∧
      m.read s.KC = s.S.read t ∧ m.read t = s.S.read s.KC ∧
      (∀ x, x ≠ s.KC → x ≠ t → m.read x = s.S.read x) ∧ (t = s.KC → m = s.S) ∧
      step s = .next (if s.KC = 0xFF#8
        then { s with S := m, KJ := t, KX := if s.KX.toNat + 1 = s.KLEN.toNat then 0x00#8 else s.KX + 1#8,
                      RDY := true, RSP := 0x3000#16, PHASE := .resp, KC := 0x00#8, inputs := rest }
        else { s with S := m, KJ := t, KX := if s.KX.toNat + 1 = s.KLEN.toNat then 0x00#8 else s.KX + 1#8,
                      KC := s.KC + 1#8, inputs := rest })

/-- R123: from the start of MIX, KX is KC mod KLEN at every micro-step, so K[KX] is the document's
`key[i mod key_length]`, and after the last one it is 256 mod KLEN. -/
def Obligations.KeyIndexIsCounterModKeyLength : Prop :=
  ∀ s : State, s.PHASE = .mix → s.KC = 0x00#8 → s.KX = 0x00#8 → 1#9 ≤ s.KLEN → s.KLEN ≤ 256#9 →
    (∀ n, n < 256 → (microSteps n s).PHASE = .mix ∧ (microSteps n s).KC.toNat = n ∧
      (microSteps n s).KX.toNat = n % s.KLEN.toNat ∧
      some ((microSteps n s).K.read (microSteps n s).KX) = s.keyList[n % s.keyList.length]?) ∧
    (microSteps 256 s).KX.toNat = 256 % s.KLEN.toNat

/-- R127, and the document's schedule: a KSA that passes its check, run to its response, leaves S and KJ as
the document's algorithm on the key in K makes them, and the other registers as R127 says. -/
def Obligations.KsaRunsTheDocumentsSchedule : Prop :=
  ∀ s : State, s.KLEN ≠ 0#9 → s.KLEN ≤ 256#9 → transact (encode .ksa) s =
    .next { s with S := (Reference.schedule s.keyList).1, CI := 0x00#8, CJ := 0x00#8, RDY := true,
                   PHASE := .resp, KC := 0x00#8, KJ := (Reference.schedule s.keyList).2,
                   KX := BitVec.ofNat 8 (256 % s.KLEN.toNat), RSP := 0x3000#16 }

/-- R124: `INIT key` from any state answers 0x1000, one 0x2000 per key byte and 0x3000, and leaves S as the
document's Initialize(key) makes it, CI = CJ = 0 and RDY = 1. -/
def Obligations.InitIsTheDocumentsInitialize : Prop :=
  ∀ (key : List Byte) (s : State), key ≠ [] → ∃ t,
    runCommands (words (expandInit key)) s =
      .next (t, 0x1000#16 :: (List.replicate key.length 0x2000#16 ++ [0x3000#16])) ∧
    Reference.initCipher key = some t.cipher ∧ t.CI = 0x00#8 ∧ t.CJ = 0x00#8 ∧ t.RDY = true ∧
    t.keyList = key.take 256

/-- R125: a key of more than 256 bytes leaves the state its first 256 bytes leave, but for KOVR. -/
def Obligations.LongKeysActAsTheirFirst256Bytes : Prop :=
  ∀ (key : List Byte) (s : State), 256 < key.length → ∃ t rs rs',
    runCommands (words (expandInit (key.take 256))) s = .next (t, rs) ∧ t.KOVR = false ∧
    runCommands (words (expandInit key)) s = .next ({ t with KOVR := true }, rs')

/-- R126: a key is used cyclically: it gives the same S as itself repeated to 256 bytes, and a key of one
byte value, of any length from 1 to 256, gives the same S as that one byte. -/
def Obligations.ShortKeysCycle : Prop :=
  (∀ (key : List Byte) (s : State), key ≠ [] → key.length < 256 → ∃ t u rs rs',
    runCommands (words (expandInit key)) s = .next (t, rs) ∧
    runCommands (words (expandInit ((List.range 256).map fun n => key.getD (n % key.length) 0#8))) s =
      .next (u, rs') ∧ t.S = u.S) ∧
  ∀ (v : Byte) (n : Nat) (s : State), 1 ≤ n → n ≤ 256 → ∃ t u rs rs',
    runCommands (words (expandInit (List.replicate n v))) s = .next (t, rs) ∧
    runCommands (words (expandInit [v])) s = .next (u, rs') ∧ t.S = u.S

/-- R55 (its sentences on STAT, KCLR and KSA), C6: performed twice in a row they leave the state they leave
once. -/
def Obligations.KclrKsaAndStatAreIdempotent : Prop :=
  ∀ (i : Instr) (s t : State), i = .kclr ∨ i = .ksa ∨ i = .stat →
    transact (encode i) s = .next t → transact (encode i) t.deliver = .next t

/-! ### The keystream -/

/-- R140, R141: a GEN with RDY = 1 is one PRGA step, with every read after the writes before it, and its
answer is the keystream byte. -/
def Obligations.GenIsOnePrgaStep : Prop :=
  ∀ s : State, s.RDY = true →
    let i := s.CI + 1#8
    let j := s.CJ + s.S.read i
    ∃ m : Bytes, m.read i = s.S.read j ∧ m.read j = s.S.read i ∧
      (∀ x, x ≠ i → x ≠ j → m.read x = s.S.read x) ∧
      exec .gen s = .next { s with S := m, CI := i, CJ := j, PHASE := .resp,
                                   RSP := 0x40#8 ++ m.read (m.read i + m.read j) }

/-- R160's block with RDY = 1: one PRGA step, answered with the data byte XOR the keystream byte; XOR 0x00
and GEN leave the same state and the same DATA, with only the opcode in RSP differing. -/
def Obligations.XorIsOnePrgaStepOnData : Prop :=
  ∀ (d : Byte) (s : State), s.RDY = true →
    let i := s.CI + 1#8
    let j := s.CJ + s.S.read i
    ∃ m : Bytes, m.read i = s.S.read j ∧ m.read j = s.S.read i ∧
      (∀ x, x ≠ i → x ≠ j → m.read x = s.S.read x) ∧
      exec (.xor d) s = .next { s with S := m, CI := i, CJ := j, PHASE := .resp,
                                       RSP := 0x50#8 ++ (d ^^^ m.read (m.read i + m.read j)) } ∧
      exec (.xor 0x00#8) s = .next { s with S := m, CI := i, CJ := j, PHASE := .resp,
                                            RSP := 0x50#8 ++ m.read (m.read i + m.read j) } ∧
      exec .gen s = .next { s with S := m, CI := i, CJ := j, PHASE := .resp,
                                   RSP := 0x40#8 ++ m.read (m.read i + m.read j) }

/-- R202: GEN and XOR with RDY = 0 are answered 0x4102 and 0x5102 and change nothing else. -/
def Obligations.NotReadyRefusesGenAndXor : Prop :=
  ∀ s : State, s.RDY = false →
    exec .gen s = .next { s with RSP := 0x4102#16, PHASE := .resp } ∧
    ∀ d, exec (.xor d) s = .next { s with RSP := 0x5102#16, PHASE := .resp }

/-- R142: after a completed KSA, CI is the number of GEN and XOR commands performed since it, modulo 256.
From any state, words with no completed KSA among them move CI on by the number performed, and every GEN
or XOR performed changes CI. -/
def Obligations.CursorCountsTheKeystream : Prop :=
  (∀ (ws rs : List Word) (s t : State), runCommands ws s = .next (t, rs) → 0x3000#16 ∉ rs →
    t.CI = s.CI + BitVec.ofNat 8 (rs.countP isKeystreamResponse)) ∧
  (∀ (ws rs : List Word) (s t : State),
    runCommands (encode .ksa :: ws) s = .next (t, 0x3000#16 :: rs) → 0x3000#16 ∉ rs →
    t.CI.toNat = rs.countP isKeystreamResponse % 256) ∧
  ∀ (w : Word) (s t : State), transact w s = .next t → isKeystreamResponse t.RSP = true → t.CI ≠ s.CI

/-- R143 (its first sentence): where the new CJ equals the new CI, S is unchanged and the byte is
S[S[CI] + S[CI]]. -/
def Obligations.EqualCursorsSwapNothing : Prop :=
  ∀ s : State, s.RDY = true → s.CJ + s.S.read (s.CI + 1#8) = s.CI + 1#8 →
    exec .gen s = .next { s with
      CI := s.CI + 1#8, CJ := s.CI + 1#8, PHASE := .resp,
      RSP := 0x40#8 ++ s.S.read (s.S.read (s.CI + 1#8) + s.S.read (s.CI + 1#8)) }

/-- R163, and the document's ApplyKeystream: with RDY = 1, `APPLY` of m bytes answers with m XOR responses
that carry the document's output bytes, and moves the cipher state as the document does; with m = 0 nothing
changes. -/
def Obligations.ApplyIsTheDocumentsApplyKeystream : Prop :=
  ∀ (data : List Byte) (s : State), s.RDY = true → ∃ t rs,
    runCommands (words (expandApply data)) s = .next (t, rs) ∧
    rs = (Reference.applyKeystream s.cipher data).2.map (fun b => 0x50#8 ++ b) ∧
    rs.length = data.length ∧ t.cipher = (Reference.applyKeystream s.cipher data).1 ∧
    t.RDY = true ∧ t.K = s.K ∧ t.KLEN = s.KLEN ∧ t.KOVR = s.KOVR ∧ (data = [] → t = s)

/-- R161: words that do not call prga() and are no KSA (STAT, KCLR, KBYTE, illegal words, refused GEN or XOR)
may stand anywhere among the XOR words: the XOR responses and the cipher state are those of the XOR words
alone. -/
def Obligations.ChunksMakeOneStream : Prop :=
  ∀ (ws rs : List Word) (s t : State), (∀ w ∈ ws, decode w ≠ .command .ksa) →
    (s.RDY = true → ∀ w ∈ ws, decode w ≠ .command .gen) → runCommands ws s = .next (t, rs) →
    ∃ u, runCommands (ws.filter isXorWord) s = .next (u, xorResponses ws rs) ∧ t.cipher = u.cipher

/-- R162: what `INIT key; APPLY P` answers, sent back after a KSA, or after `INIT key` on any engine, gives P
again. -/
def Obligations.DecryptionUndoesEncryption : Prop :=
  ∀ (key plain : List Byte) (s v : State), key ≠ [] → ∃ t rs,
    runCommands (words (expandInit key ++ expandApply plain)) s = .next (t, rs) ∧
    (let cipher := (rs.drop (key.length + 2)).map (fun r => r.extractLsb' 0 8)
     (∃ u rs', runCommands (words (.ksa :: expandApply cipher)) t = .next (u, rs') ∧
        rs'.drop 1 = plain.map (fun b => 0x50#8 ++ b)) ∧
     ∃ u rs', runCommands (words (expandInit key ++ expandApply cipher)) v = .next (u, rs') ∧
        rs'.drop (key.length + 2) = plain.map (fun b => 0x50#8 ++ b))

/-! ### Status and errors -/

/-- R180's block and R33: STAT answers with the status byte, bit by bit, and changes nothing else. -/
def Obligations.StatReadsTheStatusBits : Prop :=
  ∀ s : State, ∃ st : Byte, exec .stat s = .next { s with RSP := 0x60#8 ++ st, PHASE := .resp } ∧
    st.getLsbD 0 = s.RDY ∧ st.getLsbD 1 = decide (s.KLEN = 0#9) ∧
    st.getLsbD 2 = decide (s.KLEN = 256#9) ∧ st.getLsbD 3 = s.KOVR ∧ st.extractLsb' 4 4 = 0#4

/-- The eight values STATUS can take (R180; 95_test_vectors.md L2.6), in every state that meets R42. -/
def Obligations.StatusTakesEightValues : Prop :=
  ∀ s : State, s.Inv →
    s.status ∈ [0x00#8, 0x01#8, 0x02#8, 0x03#8, 0x04#8, 0x05#8, 0x0C#8, 0x0D#8]

/-- R181: an illegal word is answered with its opcode and the code 0x01, and nothing else changes. -/
def Obligations.IllegalWordOnlyAnswers : Prop :=
  (∀ (w : Word) (opc : Opc) (s : State), decode w = .illegal opc → opc = w.extractLsb' 12 4 ∧
    acceptWord w s =
      .next { s with RSP := w.extractLsb' 12 4 ++ 0b000#3 ++ 0b1#1 ++ 0x01#8, PHASE := .resp }) ∧
  ∀ s : State,
    acceptWord 0x1001#16 s = .next { s with RSP := 0x1101#16, PHASE := .resp } ∧
    acceptWord 0x2100#16 s = .next { s with RSP := 0x2101#16, PHASE := .resp } ∧
    acceptWord 0x0000#16 s = .next { s with RSP := 0x0101#16, PHASE := .resp } ∧
    acceptWord 0xF2AB#16 s = .next { s with RSP := 0xF101#16, PHASE := .resp }

/-- R200: an accepted word that is answered with ERR = 1 changes nothing but RSP and PHASE; the response
carries its OPC, and its code is one of three, each with its cause. -/
def Obligations.RefusedCommandsChangeNothing : Prop :=
  ∀ (w : Word) (s t : State), acceptWord w s = .next t → t.PHASE = .resp → t.RSP.getLsbD 8 = true →
    t = { s with RSP := t.RSP, PHASE := .resp } ∧ t.RSP.extractLsb' 12 4 = w.extractLsb' 12 4 ∧
    ((t.RSP.extractLsb' 0 8 = 0x01#8 ∧ ¬ ∃ i, decode w = .command i) ∨
     (t.RSP.extractLsb' 0 8 = 0x02#8 ∧ s.RDY = false ∧
        (decode w = .command .gen ∨ ∃ d, decode w = .command (.xor d))) ∨
     (t.RSP.extractLsb' 0 8 = 0x03#8 ∧ s.KLEN = 0#9 ∧ decode w = .command .ksa))

/-- R206: reset first, whatever is offered (what S and K then hold is the model's free value, log entry 10);
then ILLEGAL, whatever RDY and KLEN are; then the command's own check. -/
def Obligations.ErrorsAreCheckedInOrder : Prop :=
  ∀ (p : Pins) (rest : List Pins) (s : State), s.inputs = p :: rest → s.PHASE = .idle →
    (p.rst = true → s.accepted = none ∧ ∃ t, step s = .next t ∧
      t = { State.reset with S := t.S, K := t.K, draw := t.draw, inputs := rest }) ∧
    (p.rst = false → p.cmdValid = true →
      ((∀ opc, decode p.cmdData = .illegal opc → ∃ t, step s = .next t ∧ t.RSP = opc ++ 0x101#12) ∧
       (decode p.cmdData = .command .gen → s.RDY = false → ∃ t, step s = .next t ∧ t.RSP = 0x4102#16) ∧
       (∀ d, decode p.cmdData = .command (.xor d) → s.RDY = false →
          ∃ t, step s = .next t ∧ t.RSP = 0x5102#16) ∧
       (decode p.cmdData = .command .ksa → s.KLEN = 0#9 → ∃ t, step s = .next t ∧ t.RSP = 0x3103#16)))

/-- No step stops: the engine has no trap and no access that faults (R54, R204, R207). -/
def Obligations.EveryStepAnswersNext : Prop := ∀ s : State, ∃ t, step s = .next t

/-! ### Reset -/

/-- R43: every register the table gives a value, STATUS, and the outputs once rst is 0. -/
def Obligations.ResetLeavesTheTable : Prop :=
  State.reset.KLEN = 0#9 ∧ State.reset.KOVR = false ∧ State.reset.CI = 0x00#8 ∧
  State.reset.CJ = 0x00#8 ∧ State.reset.RDY = false ∧ State.reset.PHASE = .idle ∧
  State.reset.PHASE.code = 0b00#2 ∧ State.reset.KC = 0x00#8 ∧ State.reset.KJ = 0x00#8 ∧
  State.reset.KX = 0x00#8 ∧ State.reset.RSP = 0x0000#16 ∧ State.reset.status = 0x02#8 ∧
  outputs State.reset false = { cmdReady := true, rspValid := false, rspData := 0x0000#16 }

/-- R240: at an edge with rst = 1, in every phase and whatever the other pins, cmd_ready and rsp_valid are 0,
nothing crosses a port, and every register R43 gives a value takes it; a second such edge leaves the same
values. What S and K then hold is a free value of the model (log entries 1, 2 and 10), so nothing is said
of it. -/
def Obligations.ResetEdgeLoadsTheTable : Prop :=
  ∀ (p : Pins) (rest : List Pins) (s : State), s.inputs = p :: rest → p.rst = true →
    (outputs s p.rst).cmdReady = false ∧ (outputs s p.rst).rspValid = false ∧
    s.accepted = none ∧ s.delivered = none ∧
    ∃ t, step s = .next t ∧
      t = { State.reset with S := t.S, K := t.K, draw := t.draw, inputs := rest } ∧
      ∀ (q : Pins) (more : List Pins), rest = q :: more → q.rst = true → ∃ u, step t = .next u ∧
        u = { t with S := u.S, K := u.K, draw := u.draw, inputs := more }

/-! ### Ports and the step -/

/-- R38: the outputs. -/
def Obligations.OutputsFollowPhaseAndReset : Prop :=
  ∀ (s : State) (rst : Bool),
    ((outputs s rst).cmdReady = true ↔ s.PHASE = .idle ∧ rst = false) ∧
    ((outputs s rst).rspValid = true ↔ s.PHASE = .resp ∧ rst = false) ∧
    (outputs s rst).rspData = s.RSP

/-- A step runs the decoded command: where the pins offer a word that decodes to `i`, the engine is idle and
rst = 0, the step is `exec i` at the state with the edge's pins used up; for an illegal word it is the
illegal word's answer (R39). -/
def Obligations.StepRunsTheDecodedCommand : Prop :=
  ∀ (p : Pins) (rest : List Pins) (s : State), s.inputs = p :: rest → s.PHASE = .idle → p.rst = false →
    p.cmdValid = true →
    (∀ i, decode p.cmdData = .command i → step s = exec i { s with inputs := rest }) ∧
    (∀ opc, decode p.cmdData = .illegal opc → step s = execIllegal opc { s with inputs := rest })

/-- R244: a word is transferred, and executes, at an edge with cmd_valid = cmd_ready = 1; at every other edge
cmd_valid and cmd_data make no difference. -/
def Obligations.WordsTransferOnlyWhenReady : Prop :=
  (∀ (p : Pins) (rest : List Pins) (s : State), s.inputs = p :: rest →
    (∀ w, s.accepted = some w ↔ p.cmdValid = true ∧ (outputs s p.rst).cmdReady = true ∧ p.cmdData = w) ∧
    ∀ w, s.accepted = some w → step s = acceptWord w { s with inputs := rest }) ∧
  ∀ (p q : Pins) (rest : List Pins) (s : State), p.rst = q.rst → p.rspReady = q.rspReady →
    State.accepted { s with inputs := p :: rest } = none →
    State.accepted { s with inputs := q :: rest } = none →
    step { s with inputs := p :: rest } = step { s with inputs := q :: rest }

/-- R246: a response is transferred at an edge with rsp_valid = rsp_ready = 1, and the engine then goes to
IDLE; without it the response stays; and rsp_ready makes no difference while rsp_valid = 0. -/
def Obligations.ResponsesWaitUntilTaken : Prop :=
  ∀ (p : Pins) (rest : List Pins) (s : State), p.rst = false → s.inputs = p :: rest →
    (s.PHASE = .resp → p.rspReady = true →
      s.delivered = some s.RSP ∧ step s = .next { s with PHASE := .idle, inputs := rest }) ∧
    (s.PHASE = .resp → p.rspReady = false →
      s.delivered = none ∧ step s = .next { s with inputs := rest }) ∧
    (s.PHASE ≠ .resp → s.delivered = none ∧
      ∀ b, step { s with inputs := { p with rspReady := b } :: rest } = step s)

/-- R28: the encoding of PHASE, and its transitions. -/
def Obligations.PhaseMovesAsTheTableSays : Prop :=
  Phase.idle.code = 0b00#2 ∧ Phase.fill.code = 0b01#2 ∧ Phase.mix.code = 0b10#2 ∧
  Phase.resp.code = 0b11#2 ∧
  ∀ (p : Pins) (rest : List Pins) (s t : State), s.inputs = p :: rest → step s = .next t →
    t.PHASE =
      if p.rst = true then .idle
      else match s.PHASE with
        | .idle =>
          if p.cmdValid = false then .idle
          else if decode p.cmdData = .command .ksa ∧ s.KLEN ≠ 0#9 then .fill else .resp
        | .fill => if s.KC = 0xFF#8 then .mix else .fill
        | .mix => if s.KC = 0xFF#8 then .resp else .mix
        | .resp => if p.rspReady = true then .idle else .resp

/-- R251, R249: with no reset, an accepted word has its response after 1 edge, a KSA that passes its check
after 513; until then no response is valid and no word is accepted; and the state then is the one the
transaction-level view gives. Past the end of its list the host is quiet, the model's choice (log entry 3). -/
def Obligations.EveryWordCompletesInBoundedTime : Prop :=
  ∀ (w : Word) (p : Pins) (rest : List Pins) (s : State), s.PHASE = .idle → s.inputs = p :: rest →
    p.offers w → NoReset rest →
    let n := if decode w = .command .ksa ∧ s.KLEN ≠ 0#9 then 513 else 1
    (∃ t, transact w s = .next t ∧
      Host.Core.run Sys2Proof.core n s = .next { t with inputs := s.inputs.drop n }) ∧
    ∀ m t, 0 < m → m < n → Host.Core.run Sys2Proof.core m s = .next t →
      (outputs t false).rspValid = false ∧ (outputs t false).cmdReady = false

/-- R40: with no reset, whatever the edges at which the host offers words and takes responses, the responses
delivered are the ones the accepted words get at the transaction level, in order; at most one is still
to come. Past the end of its list the host is quiet, the model's choice (log entry 3). -/
def Obligations.ResponsesDependOnTheWordsAlone : Prop :=
  ∀ (n : Nat) (s : State), s.PHASE = .idle → NoReset s.inputs → ∃ t rs,
    runCommands (trace n s).1 s = .next (t, rs) ∧ (trace n s).2 <+: rs ∧
    rs.length ≤ (trace n s).2.length + 1

/-! ### Invariants and what is never observed -/

/-- The invariants R42 and R21 speak of hold at reset. -/
def Obligations.ResetMeetsTheInvariants : Prop := State.reset.Inv

/-- Every step keeps the invariants of R42 and R21, from every state that meets them and for all inputs. -/
def Obligations.StepKeepsTheInvariants : Prop :=
  ∀ s t : State, s.Inv → step s = .next t → t.Inv

/-- R42, R21: after any number of edges from reset, with any inputs, the state meets the five items, and S is
a permutation whenever RDY = 1 and throughout MIX. Past the end of the list the host is quiet, the model's
choice (log entry 3). -/
def Obligations.ReachableStatesMeetTheInvariants : Prop :=
  ∀ (d n : Nat) (ins : List Pins) (t : State),
    Host.Core.run Sys2Proof.core n (State.resetAt d ins) = .next t →
    t.KLEN ≤ 256#9 ∧
    (t.PHASE = .fill ∨ t.PHASE = .mix →
      1#9 ≤ t.KLEN ∧ t.KLEN ≤ 256#9 ∧ t.RDY = false ∧ t.CI = 0#8 ∧ t.CJ = 0#8) ∧
    (t.PHASE = .fill → ∀ x : Byte, x < t.KC → t.S.read x = x) ∧
    (t.PHASE = .mix → t.KX.toNat = t.KC.toNat % t.KLEN.toNat) ∧
    (t.RDY = true ∨ t.PHASE = .mix → ∀ v : Byte, ∃! x : Byte, t.S.read x = v)

/-- Two states that meet the invariants and agree in all but what R41 says is never observed have the same
outputs, and a step keeps them so; it is one step of R41. -/
def Obligations.StepKeepsUnobservedUnobserved : Prop :=
  ∀ s t : State, s.Inv → t.Inv → SameView s t →
    s.outputsNow = t.outputsNow ∧ s.accepted = t.accepted ∧ s.delivered = t.delivered ∧
    ∃ s' t', step s = .next s' ∧ step t = .next t' ∧ SameView s' t'

/-- R41: whatever S and K hold after reset, and whatever the host drives, the same words are accepted and the
same responses delivered. The number of the draw is the model's own (log entry 2), and makes no difference
either. -/
def Obligations.ResetContentsAreNeverObserved : Prop :=
  ∀ (n d d' : Nat) (m k m' k' : Bytes) (ins : List Pins),
    trace n { State.resetAt d ins with S := m, K := k } =
      trace n { State.resetAt d' ins with S := m', K := k' }

/-! ### Frames -/

/-- Which entries of S and K each operation leaves alone (R51): KCLR, STAT, an illegal word and the KSA's
accept block change none; KBYTE changes none of S, and of K at most K[KLEN], and that one only while
KLEN < 256; GEN and XOR change none of K, and of S at most the entries at the new CI and the new CJ. -/
def Obligations.CommandsChangeOnlyTheirEntries : Prop :=
  ∀ (w : Word) (s t : State), acceptWord w s = .next t →
    (∀ x : Byte, t.K.read x ≠ s.K.read x →
      (∃ b, decode w = .command (.kbyte b)) ∧ s.KLEN < 256#9 ∧ x.toNat = s.KLEN.toNat) ∧
    (∀ x : Byte, t.S.read x ≠ s.S.read x →
      (decode w = .command .gen ∨ ∃ d, decode w = .command (.xor d)) ∧ s.RDY = true ∧
      (x = s.CI + 1#8 ∨ x = s.CJ + s.S.read (s.CI + 1#8)))

/-- Which entries the micro-steps leave alone (R51): FILL changes at most S[KC], MIX at most S[KC] and S[t],
and neither changes K. -/
def Obligations.MicroStepsChangeOnlyTheirEntries : Prop :=
  ∀ s : State,
    (fillStep s).K = s.K ∧ (∀ x, x ≠ s.KC → (fillStep s).S.read x = s.S.read x) ∧
    (mixStep s).K = s.K ∧
    ∀ x, x ≠ s.KC → x ≠ s.KJ + s.S.read s.KC + s.K.read s.KX → (mixStep s).S.read x = s.S.read x

/-- Who writes which register, over all commands (R22 to R31, R103): KLEN and KOVR only KCLR and KBYTE, and
KBYTE only one of the two; K only KBYTE; the cursors only KSA, GEN and XOR; RDY and KC only KSA; KJ and KX no
command at its accepting edge. The model's own fields stay. -/
def Obligations.CommandsWriteOnlyTheirRegisters : Prop :=
  ∀ (i : Instr) (s t : State), exec i s = .next t →
    t.KJ = s.KJ ∧ t.KX = s.KX ∧ t.draw = s.draw ∧ t.inputs = s.inputs ∧
    (i ≠ .ksa → t.RDY = s.RDY ∧ t.KC = s.KC) ∧
    ((∀ b, i ≠ .kbyte b) → t.K = s.K) ∧
    (i ≠ .kclr → (∀ b, i ≠ .kbyte b) → t.KLEN = s.KLEN ∧ t.KOVR = s.KOVR) ∧
    ((∃ b, i = .kbyte b) → t.KLEN = s.KLEN ∨ t.KOVR = s.KOVR) ∧
    (i ≠ .gen → (∀ d, i ≠ .xor d) → t.S = s.S) ∧
    (i ≠ .ksa → i ≠ .gen → (∀ d, i ≠ .xor d) → t.CI = s.CI ∧ t.CJ = s.CJ)

/-- An idle engine that is offered nothing keeps every bit of state (R215, R39). -/
def Obligations.IdleKeepsEveryBit : Prop :=
  ∀ (p : Pins) (rest : List Pins) (s : State), s.inputs = p :: rest → p.rst = false → p.cmdValid = false →
    s.PHASE = .idle → step s = .next { s with inputs := rest }
end

