-- ==== Sys2Proof/Laws/Bytes.lean ====
section
/-! SUPPORT. Reading, writing and swapping entries of a 256-byte array, and the permutation property. -/

namespace Sys2Proof.Bytes

/-- Two arrays with the same entries are the same array. -/
theorem ext_read {m n : Bytes} (h : ∀ i : Byte, m.read i = n.read i) : m = n := by
  apply Vector.ext
  intro i hi
  have := h (BitVec.ofNat 8 i)
  simpa [read, Nat.mod_eq_of_lt hi] using this

@[simp] theorem read_ofFn (f : Byte → Byte) (i : Byte) : (ofFn f).read i = f i := by
  simp [read, ofFn]

@[simp] theorem read_identity (i : Byte) : identity.read i = i := by simp [identity]

@[simp] theorem read_write_self (m : Bytes) (i v : Byte) : (m.write i v).read i = v := by
  simp [read, write]

theorem read_write (m : Bytes) (i v x : Byte) :
    (m.write i v).read x = if x = i then v else m.read x := by
  by_cases h : x = i
  · simp [h]
  · have : i.toNat ≠ x.toNat := fun e => h (BitVec.eq_of_toNat_eq e.symm)
    simp [read, write, this, h]

theorem read_write_of_ne (m : Bytes) {i v x : Byte} (h : x ≠ i) : (m.write i v).read x = m.read x := by
  simp [read_write, h]

/-- A swap, read at any index. -/
theorem read_swap (m : Bytes) (a b x : Byte) :
    (m.swap a b).read x = if x = b then m.read a else if x = a then m.read b else m.read x := by
  simp [swap, read_write]

@[simp] theorem read_swap_left (m : Bytes) (a b : Byte) : (m.swap a b).read a = m.read b := by
  by_cases h : a = b <;> simp [read_swap, h]

@[simp] theorem read_swap_right (m : Bytes) (a b : Byte) : (m.swap a b).read b = m.read a := by
  simp [read_swap]

theorem read_swap_of_ne (m : Bytes) {a b x : Byte} (ha : x ≠ a) (hb : x ≠ b) :
    (m.swap a b).read x = m.read x := by
  simp [read_swap, ha, hb]

/-- "When `a == b` it leaves S unchanged" (R12). -/
@[simp] theorem swap_self (m : Bytes) (a : Byte) : m.swap a a = m := by
  apply ext_read
  intro x
  by_cases h : x = a <;> simp [read_swap, h]

/-- Swapping the same two entries again undoes the swap. -/
theorem swap_swap (m : Bytes) (a b : Byte) : (m.swap a b).swap a b = m := by
  apply ext_read
  intro x
  by_cases hb : x = b
  · simp [hb]
  · by_cases ha : x = a <;> simp [read_swap, ha, hb]

/-- The permutation property, as "each value stands somewhere, and no value twice". -/
theorem isPermutation_iff (m : Bytes) :
    m.IsPermutation ↔ (∀ v, ∃ i, m.read i = v) ∧ ∀ i j, m.read i = m.read j → i = j := by
  constructor
  · intro h
    exact ⟨fun v => (h v).exists, fun i j e => (h (m.read j)).unique e rfl⟩
  · rintro ⟨hs, hi⟩ v
    obtain ⟨i, hv⟩ := hs v
    exact ⟨i, hv, fun j hj => hi j i (hj.trans hv.symm)⟩

end Sys2Proof.Bytes
end

