-- ==== Sys2Proof/Laws/Encoding.lean ====
section
/-! SUPPORT. The fields of a packed command word and of a packed response word. -/

namespace Sys2Proof

@[simp] theorem Word.opc_word (f : Fields) : Word.opc f.word = f.opc := by
  apply BitVec.eq_of_getLsbD_eq
  intro i hi
  simp only [Word.opc, Fields.word, BitVec.getLsbD_extractLsb', BitVec.getLsbD_append]
  grind

@[simp] theorem Word.rsv_word (f : Fields) : Word.rsv f.word = f.rsv := by
  apply BitVec.eq_of_getLsbD_eq
  intro i hi
  simp only [Word.rsv, Fields.word, BitVec.getLsbD_extractLsb', BitVec.getLsbD_append]
  grind

@[simp] theorem Word.imm_word (f : Fields) : Word.imm f.word = f.imm := by
  apply BitVec.eq_of_getLsbD_eq
  intro i hi
  simp only [Word.imm, Fields.word, BitVec.getLsbD_extractLsb', BitVec.getLsbD_append]
  grind

/-- A word is packed from its own fields. -/
@[simp] theorem Fields.word_fields (w : Word) : (Word.fields w).word = w := by
  apply BitVec.eq_of_getLsbD_eq
  intro i hi
  simp only [Word.fields, Word.opc, Word.rsv, Word.imm, Fields.word, BitVec.getLsbD_extractLsb',
    BitVec.getLsbD_append]
  grind

namespace Machine.Response

@[simp] theorem ropc_responseWord (o : Opc) (e : Bool) (d : Byte) : ropc (responseWord o e d) = o := by
  apply BitVec.eq_of_getLsbD_eq
  intro i hi
  simp only [ropc, responseWord, BitVec.getLsbD_extractLsb', BitVec.getLsbD_append]
  grind

@[simp] theorem rz_responseWord (o : Opc) (e : Bool) (d : Byte) : rz (responseWord o e d) = 0#3 := by
  apply BitVec.eq_of_getLsbD_eq
  intro i hi
  simp only [rz, responseWord, BitVec.getLsbD_extractLsb', BitVec.getLsbD_append]
  grind

@[simp] theorem err_responseWord (o : Opc) (e : Bool) (d : Byte) : err (responseWord o e d) = e := by
  simp only [err, responseWord, BitVec.getLsbD_append]
  cases e <;> simp

@[simp] theorem data_responseWord (o : Opc) (e : Bool) (d : Byte) : data (responseWord o e d) = d := by
  apply BitVec.eq_of_getLsbD_eq
  intro i hi
  simp only [data, responseWord, BitVec.getLsbD_extractLsb', BitVec.getLsbD_append]
  grind

end Machine.Response

end Sys2Proof
end

