-- ==== Sys2Proof/Laws/State.lean ====
section
/-! SUPPORT. One lemma per field per named update of State, so that no proof unfolds a record update. -/

namespace Sys2Proof.Machine.State

/-! ### writeS -/

@[simp] theorem writeS_S (s : State) (i v : Byte) : (s.writeS i v).S = s.S.write i v := rfl
@[simp] theorem writeS_K (s : State) (i v : Byte) : (s.writeS i v).K = s.K := rfl
@[simp] theorem writeS_KLEN (s : State) (i v : Byte) : (s.writeS i v).KLEN = s.KLEN := rfl
@[simp] theorem writeS_KOVR (s : State) (i v : Byte) : (s.writeS i v).KOVR = s.KOVR := rfl
@[simp] theorem writeS_CI (s : State) (i v : Byte) : (s.writeS i v).CI = s.CI := rfl
@[simp] theorem writeS_CJ (s : State) (i v : Byte) : (s.writeS i v).CJ = s.CJ := rfl
@[simp] theorem writeS_RDY (s : State) (i v : Byte) : (s.writeS i v).RDY = s.RDY := rfl
@[simp] theorem writeS_PHASE (s : State) (i v : Byte) : (s.writeS i v).PHASE = s.PHASE := rfl
@[simp] theorem writeS_KC (s : State) (i v : Byte) : (s.writeS i v).KC = s.KC := rfl
@[simp] theorem writeS_KJ (s : State) (i v : Byte) : (s.writeS i v).KJ = s.KJ := rfl
@[simp] theorem writeS_KX (s : State) (i v : Byte) : (s.writeS i v).KX = s.KX := rfl
@[simp] theorem writeS_RSP (s : State) (i v : Byte) : (s.writeS i v).RSP = s.RSP := rfl
@[simp] theorem writeS_draw (s : State) (i v : Byte) : (s.writeS i v).draw = s.draw := rfl
@[simp] theorem writeS_inputs (s : State) (i v : Byte) : (s.writeS i v).inputs = s.inputs := rfl

/-! ### swapS -/

@[simp] theorem swapS_S (s : State) (a b : Byte) : (s.swapS a b).S = s.S.swap a b := rfl
@[simp] theorem swapS_K (s : State) (a b : Byte) : (s.swapS a b).K = s.K := rfl
@[simp] theorem swapS_KLEN (s : State) (a b : Byte) : (s.swapS a b).KLEN = s.KLEN := rfl
@[simp] theorem swapS_KOVR (s : State) (a b : Byte) : (s.swapS a b).KOVR = s.KOVR := rfl
@[simp] theorem swapS_CI (s : State) (a b : Byte) : (s.swapS a b).CI = s.CI := rfl
@[simp] theorem swapS_CJ (s : State) (a b : Byte) : (s.swapS a b).CJ = s.CJ := rfl
@[simp] theorem swapS_RDY (s : State) (a b : Byte) : (s.swapS a b).RDY = s.RDY := rfl
@[simp] theorem swapS_PHASE (s : State) (a b : Byte) : (s.swapS a b).PHASE = s.PHASE := rfl
@[simp] theorem swapS_KC (s : State) (a b : Byte) : (s.swapS a b).KC = s.KC := rfl
@[simp] theorem swapS_KJ (s : State) (a b : Byte) : (s.swapS a b).KJ = s.KJ := rfl
@[simp] theorem swapS_KX (s : State) (a b : Byte) : (s.swapS a b).KX = s.KX := rfl
@[simp] theorem swapS_RSP (s : State) (a b : Byte) : (s.swapS a b).RSP = s.RSP := rfl
@[simp] theorem swapS_draw (s : State) (a b : Byte) : (s.swapS a b).draw = s.draw := rfl
@[simp] theorem swapS_inputs (s : State) (a b : Byte) : (s.swapS a b).inputs = s.inputs := rfl

/-! ### writeK -/

@[simp] theorem writeK_S (s : State) (i v : Byte) : (s.writeK i v).S = s.S := rfl
@[simp] theorem writeK_K (s : State) (i v : Byte) : (s.writeK i v).K = s.K.write i v := rfl
@[simp] theorem writeK_KLEN (s : State) (i v : Byte) : (s.writeK i v).KLEN = s.KLEN := rfl
@[simp] theorem writeK_KOVR (s : State) (i v : Byte) : (s.writeK i v).KOVR = s.KOVR := rfl
@[simp] theorem writeK_CI (s : State) (i v : Byte) : (s.writeK i v).CI = s.CI := rfl
@[simp] theorem writeK_CJ (s : State) (i v : Byte) : (s.writeK i v).CJ = s.CJ := rfl
@[simp] theorem writeK_RDY (s : State) (i v : Byte) : (s.writeK i v).RDY = s.RDY := rfl
@[simp] theorem writeK_PHASE (s : State) (i v : Byte) : (s.writeK i v).PHASE = s.PHASE := rfl
@[simp] theorem writeK_KC (s : State) (i v : Byte) : (s.writeK i v).KC = s.KC := rfl
@[simp] theorem writeK_KJ (s : State) (i v : Byte) : (s.writeK i v).KJ = s.KJ := rfl
@[simp] theorem writeK_KX (s : State) (i v : Byte) : (s.writeK i v).KX = s.KX := rfl
@[simp] theorem writeK_RSP (s : State) (i v : Byte) : (s.writeK i v).RSP = s.RSP := rfl
@[simp] theorem writeK_draw (s : State) (i v : Byte) : (s.writeK i v).draw = s.draw := rfl
@[simp] theorem writeK_inputs (s : State) (i v : Byte) : (s.writeK i v).inputs = s.inputs := rfl

/-! ### respond -/

@[simp] theorem respond_S (s : State) (o : Opc) (d : Byte) : (s.respond o d).S = s.S := rfl
@[simp] theorem respond_K (s : State) (o : Opc) (d : Byte) : (s.respond o d).K = s.K := rfl
@[simp] theorem respond_KLEN (s : State) (o : Opc) (d : Byte) : (s.respond o d).KLEN = s.KLEN := rfl
@[simp] theorem respond_KOVR (s : State) (o : Opc) (d : Byte) : (s.respond o d).KOVR = s.KOVR := rfl
@[simp] theorem respond_CI (s : State) (o : Opc) (d : Byte) : (s.respond o d).CI = s.CI := rfl
@[simp] theorem respond_CJ (s : State) (o : Opc) (d : Byte) : (s.respond o d).CJ = s.CJ := rfl
@[simp] theorem respond_RDY (s : State) (o : Opc) (d : Byte) : (s.respond o d).RDY = s.RDY := rfl
@[simp] theorem respond_PHASE (s : State) (o : Opc) (d : Byte) :
    (s.respond o d).PHASE = .resp := rfl
@[simp] theorem respond_KC (s : State) (o : Opc) (d : Byte) : (s.respond o d).KC = s.KC := rfl
@[simp] theorem respond_KJ (s : State) (o : Opc) (d : Byte) : (s.respond o d).KJ = s.KJ := rfl
@[simp] theorem respond_KX (s : State) (o : Opc) (d : Byte) : (s.respond o d).KX = s.KX := rfl
@[simp] theorem respond_RSP (s : State) (o : Opc) (d : Byte) :
    (s.respond o d).RSP = responseWord o false d := rfl
@[simp] theorem respond_draw (s : State) (o : Opc) (d : Byte) : (s.respond o d).draw = s.draw := rfl
@[simp] theorem respond_inputs (s : State) (o : Opc) (d : Byte) :
    (s.respond o d).inputs = s.inputs := rfl

/-! ### raise -/

@[simp] theorem raise_S (s : State) (o : Opc) (e : ErrorCode) : (s.raise o e).S = s.S := rfl
@[simp] theorem raise_K (s : State) (o : Opc) (e : ErrorCode) : (s.raise o e).K = s.K := rfl
@[simp] theorem raise_KLEN (s : State) (o : Opc) (e : ErrorCode) :
    (s.raise o e).KLEN = s.KLEN := rfl
@[simp] theorem raise_KOVR (s : State) (o : Opc) (e : ErrorCode) :
    (s.raise o e).KOVR = s.KOVR := rfl
@[simp] theorem raise_CI (s : State) (o : Opc) (e : ErrorCode) : (s.raise o e).CI = s.CI := rfl
@[simp] theorem raise_CJ (s : State) (o : Opc) (e : ErrorCode) : (s.raise o e).CJ = s.CJ := rfl
@[simp] theorem raise_RDY (s : State) (o : Opc) (e : ErrorCode) : (s.raise o e).RDY = s.RDY := rfl
@[simp] theorem raise_PHASE (s : State) (o : Opc) (e : ErrorCode) :
    (s.raise o e).PHASE = .resp := rfl
@[simp] theorem raise_KC (s : State) (o : Opc) (e : ErrorCode) : (s.raise o e).KC = s.KC := rfl
@[simp] theorem raise_KJ (s : State) (o : Opc) (e : ErrorCode) : (s.raise o e).KJ = s.KJ := rfl
@[simp] theorem raise_KX (s : State) (o : Opc) (e : ErrorCode) : (s.raise o e).KX = s.KX := rfl
@[simp] theorem raise_RSP (s : State) (o : Opc) (e : ErrorCode) :
    (s.raise o e).RSP = responseWord o true e.code := rfl
@[simp] theorem raise_draw (s : State) (o : Opc) (e : ErrorCode) :
    (s.raise o e).draw = s.draw := rfl
@[simp] theorem raise_inputs (s : State) (o : Opc) (e : ErrorCode) :
    (s.raise o e).inputs = s.inputs := rfl

/-! ### deliver -/

@[simp] theorem deliver_S (s : State) : s.deliver.S = s.S := rfl
@[simp] theorem deliver_K (s : State) : s.deliver.K = s.K := rfl
@[simp] theorem deliver_KLEN (s : State) : s.deliver.KLEN = s.KLEN := rfl
@[simp] theorem deliver_KOVR (s : State) : s.deliver.KOVR = s.KOVR := rfl
@[simp] theorem deliver_CI (s : State) : s.deliver.CI = s.CI := rfl
@[simp] theorem deliver_CJ (s : State) : s.deliver.CJ = s.CJ := rfl
@[simp] theorem deliver_RDY (s : State) : s.deliver.RDY = s.RDY := rfl
@[simp] theorem deliver_PHASE (s : State) : s.deliver.PHASE = .idle := rfl
@[simp] theorem deliver_KC (s : State) : s.deliver.KC = s.KC := rfl
@[simp] theorem deliver_KJ (s : State) : s.deliver.KJ = s.KJ := rfl
@[simp] theorem deliver_KX (s : State) : s.deliver.KX = s.KX := rfl
@[simp] theorem deliver_RSP (s : State) : s.deliver.RSP = s.RSP := rfl
@[simp] theorem deliver_draw (s : State) : s.deliver.draw = s.draw := rfl
@[simp] theorem deliver_inputs (s : State) : s.deliver.inputs = s.inputs := rfl

/-! ### consume -/

@[simp] theorem consume_S (s : State) : s.consume.S = s.S := rfl
@[simp] theorem consume_K (s : State) : s.consume.K = s.K := rfl
@[simp] theorem consume_KLEN (s : State) : s.consume.KLEN = s.KLEN := rfl
@[simp] theorem consume_KOVR (s : State) : s.consume.KOVR = s.KOVR := rfl
@[simp] theorem consume_CI (s : State) : s.consume.CI = s.CI := rfl
@[simp] theorem consume_CJ (s : State) : s.consume.CJ = s.CJ := rfl
@[simp] theorem consume_RDY (s : State) : s.consume.RDY = s.RDY := rfl
@[simp] theorem consume_PHASE (s : State) : s.consume.PHASE = s.PHASE := rfl
@[simp] theorem consume_KC (s : State) : s.consume.KC = s.KC := rfl
@[simp] theorem consume_KJ (s : State) : s.consume.KJ = s.KJ := rfl
@[simp] theorem consume_KX (s : State) : s.consume.KX = s.KX := rfl
@[simp] theorem consume_RSP (s : State) : s.consume.RSP = s.RSP := rfl
@[simp] theorem consume_draw (s : State) : s.consume.draw = s.draw := rfl
@[simp] theorem consume_inputs (s : State) : s.consume.inputs = s.inputs.tail := rfl

/-! ### offerWord -/

@[simp] theorem offerWord_S (s : State) (w : Word) : (s.offerWord w).S = s.S := rfl
@[simp] theorem offerWord_K (s : State) (w : Word) : (s.offerWord w).K = s.K := rfl
@[simp] theorem offerWord_KLEN (s : State) (w : Word) : (s.offerWord w).KLEN = s.KLEN := rfl
@[simp] theorem offerWord_KOVR (s : State) (w : Word) : (s.offerWord w).KOVR = s.KOVR := rfl
@[simp] theorem offerWord_CI (s : State) (w : Word) : (s.offerWord w).CI = s.CI := rfl
@[simp] theorem offerWord_CJ (s : State) (w : Word) : (s.offerWord w).CJ = s.CJ := rfl
@[simp] theorem offerWord_RDY (s : State) (w : Word) : (s.offerWord w).RDY = s.RDY := rfl
@[simp] theorem offerWord_PHASE (s : State) (w : Word) : (s.offerWord w).PHASE = .idle := rfl
@[simp] theorem offerWord_KC (s : State) (w : Word) : (s.offerWord w).KC = s.KC := rfl
@[simp] theorem offerWord_KJ (s : State) (w : Word) : (s.offerWord w).KJ = s.KJ := rfl
@[simp] theorem offerWord_KX (s : State) (w : Word) : (s.offerWord w).KX = s.KX := rfl
@[simp] theorem offerWord_RSP (s : State) (w : Word) : (s.offerWord w).RSP = s.RSP := rfl
@[simp] theorem offerWord_draw (s : State) (w : Word) : (s.offerWord w).draw = s.draw := rfl
@[simp] theorem offerWord_inputs (s : State) (w : Word) :
    (s.offerWord w).inputs = { rst := false, cmdValid := true, cmdData := w, rspReady := false } :: s.inputs := rfl

/-! ### resetAt -/

@[simp] theorem resetAt_S (d : Nat) (ps : List Pins) : (resetAt d ps).S = Bytes.ofFn (Config.initS d) := rfl
@[simp] theorem resetAt_K (d : Nat) (ps : List Pins) : (resetAt d ps).K = Bytes.ofFn (Config.initK d) := rfl
@[simp] theorem resetAt_KLEN (d : Nat) (ps : List Pins) : (resetAt d ps).KLEN = 0#9 := rfl
@[simp] theorem resetAt_KOVR (d : Nat) (ps : List Pins) : (resetAt d ps).KOVR = false := rfl
@[simp] theorem resetAt_CI (d : Nat) (ps : List Pins) : (resetAt d ps).CI = 0#8 := rfl
@[simp] theorem resetAt_CJ (d : Nat) (ps : List Pins) : (resetAt d ps).CJ = 0#8 := rfl
@[simp] theorem resetAt_RDY (d : Nat) (ps : List Pins) : (resetAt d ps).RDY = false := rfl
@[simp] theorem resetAt_PHASE (d : Nat) (ps : List Pins) : (resetAt d ps).PHASE = .idle := rfl
@[simp] theorem resetAt_KC (d : Nat) (ps : List Pins) : (resetAt d ps).KC = 0#8 := rfl
@[simp] theorem resetAt_KJ (d : Nat) (ps : List Pins) : (resetAt d ps).KJ = 0#8 := rfl
@[simp] theorem resetAt_KX (d : Nat) (ps : List Pins) : (resetAt d ps).KX = 0#8 := rfl
@[simp] theorem resetAt_RSP (d : Nat) (ps : List Pins) : (resetAt d ps).RSP = 0#16 := rfl
@[simp] theorem resetAt_draw (d : Nat) (ps : List Pins) : (resetAt d ps).draw = d := rfl
@[simp] theorem resetAt_inputs (d : Nat) (ps : List Pins) : (resetAt d ps).inputs = ps := rfl

/-- A reset edge is the reset state of the next draw, with the pins that are still to come. -/
theorem resetEdge_eq (s : State) : s.resetEdge = resetAt (s.draw + 1) s.inputs := rfl

/-- The edge's pins are the head of the list, where there is one. -/
theorem pins_cons (s : State) (p : Pins) (ps : List Pins) (h : s.inputs = p :: ps) : s.pins = p := by
  simp [pins, h]

/-- Using up the edge's pins leaves the rest of the list. -/
theorem consume_cons (s : State) (p : Pins) (ps : List Pins) (h : s.inputs = p :: ps) :
    s.consume = { s with inputs := ps } := by
  simp [consume, h]

end Sys2Proof.Machine.State
end

