-- ==== Sys2Proof/Laws/Exec.lean ====
section
/-! SUPPORT. What each shared operation can do, said once: the PRGA step, the micro-steps, an accepted word
and one edge of the clock. Later proofs cite these and unfold nothing. -/

namespace Sys2Proof.Machine

/-! ### The PRGA step -/

/-- The state after the PRGA step (R140, steps 1 to 3). -/
theorem prga_state (s : State) : (prga s).1 =
    { s with
      CI := s.CI + 1#8
      CJ := s.CJ + s.S.read (s.CI + 1#8)
      S := s.S.swap (s.CI + 1#8) (s.CJ + s.S.read (s.CI + 1#8)) } := rfl

/-- The keystream byte (R140, steps 4 and 5), read after the swap. -/
theorem prga_byte (s : State) : (prga s).2 =
    (prga s).1.S.read ((prga s).1.S.read (prga s).1.CI + (prga s).1.S.read (prga s).1.CJ) := rfl

/-! ### The micro-steps -/

/-- A FILL micro-step before the last (R121). -/
theorem fillStep_next {s : State} (h : s.KC ≠ 0xFF#8) :
    fillStep s = { s with S := s.S.write s.KC s.KC, KC := s.KC + 1#8 } := by
  simp [fillStep, h, State.writeS]

/-- The last FILL micro-step (R121). -/
theorem fillStep_last {s : State} (h : s.KC = 0xFF#8) :
    fillStep s = { s with
      S := s.S.write s.KC s.KC
      KC := 0#8
      KJ := 0#8
      KX := 0#8
      PHASE := .mix } := by
  simp [fillStep, h, State.writeS]

/-- A MIX micro-step before the last (R122). -/
theorem mixStep_next {s : State} (h : s.KC ≠ 0xFF#8) :
    mixStep s = { s with
      S := s.S.swap s.KC (mixIndex s)
      KJ := mixIndex s
      KX := nextKeyIndex s.KX s.KLEN
      KC := s.KC + 1#8 } := by
  simp [mixStep, h, State.swapS]

/-- The last MIX micro-step (R122). -/
theorem mixStep_last {s : State} (h : s.KC = 0xFF#8) :
    mixStep s = { s with
      S := s.S.swap s.KC (mixIndex s)
      KJ := mixIndex s
      KX := nextKeyIndex s.KX s.KLEN
      KC := 0#8
      RDY := true
      RSP := responseWord 0x3#4 false 0#8
      PHASE := .resp } := by
  simp [mixStep, h, State.swapS, State.respond]

/-- The key index on numbers: it wraps where KX + 1 reaches KLEN (R31). -/
theorem nextKeyIndex_eq (kx : Byte) (klen : BitVec 9) :
    nextKeyIndex kx klen = if kx.toNat + 1 = klen.toNat then 0#8 else kx + 1#8 := by
  have : kx.zeroExtend 9 + 1#9 = klen ↔ kx.toNat + 1 = klen.toNat := by
    constructor <;> intro h <;> bv_omega
  simp [nextKeyIndex, this]

/-! ### An accepted word -/

/-- Everything an accepted word can do (R39): the six commands, their refusals, and the illegal word. -/
theorem acceptWord_cases {w : Word} {s t : State} (h : acceptWord w s = .next t) :
    (decode w = .command .kclr ∧ t = { s with KLEN := 0#9, KOVR := false }.respond 0x1#4 0#8) ∨
    (∃ b, decode w = .command (.kbyte b) ∧ s.KLEN < Config.kmax ∧
      t = { s.writeK (keyWriteIndex s.KLEN) b with KLEN := s.KLEN + 1#9 }.respond 0x2#4 0#8) ∨
    (∃ b, decode w = .command (.kbyte b) ∧ ¬ s.KLEN < Config.kmax ∧
      t = { s with KOVR := true }.respond 0x2#4 0#8) ∨
    (decode w = .command .ksa ∧ s.KLEN = 0#9 ∧ t = s.raise 0x3#4 .emptyKey) ∨
    (decode w = .command .ksa ∧ s.KLEN ≠ 0#9 ∧
      t = { s with RDY := false, CI := 0#8, CJ := 0#8, KC := 0#8, PHASE := .fill }) ∨
    (decode w = .command .gen ∧ s.RDY = false ∧ t = s.raise 0x4#4 .notReady) ∨
    (decode w = .command .gen ∧ s.RDY = true ∧ t = (prga s).1.respond 0x4#4 (prga s).2) ∨
    (∃ d, decode w = .command (.xor d) ∧ s.RDY = false ∧ t = s.raise 0x5#4 .notReady) ∨
    (∃ d, decode w = .command (.xor d) ∧ s.RDY = true ∧
      t = (prga s).1.respond 0x5#4 (d ^^^ (prga s).2)) ∨
    (decode w = .command .stat ∧ t = s.respond 0x6#4 s.status) ∨
    (∃ o, decode w = .illegal o ∧ t = s.raise o .illegal) := by
  unfold acceptWord at h
  cases hd : decode w with
  | illegal o => simp_all [execIllegal]
  | command i =>
    cases i with
    | kclr => simp_all [exec, execKclr]
    | kbyte b =>
      by_cases hk : s.KLEN < Config.kmax <;> simp_all [exec, execKbyte]
    | ksa => by_cases hk : s.KLEN = 0#9 <;> simp_all [exec, execKsa]
    | gen => cases hr : s.RDY <;> simp_all [exec, execGen]
    | xor d => cases hr : s.RDY <;> simp_all [exec, execXor]
    | stat => simp_all [exec, execStat]

/-- Every command has a next state. -/
theorem exec_next (i : Instr) (s : State) : ∃ t, exec i s = .next t := by
  cases i with
  | kclr => exact ⟨_, rfl⟩
  | kbyte b => exact ⟨_, rfl⟩
  | ksa => simp only [exec, execKsa]; split <;> exact ⟨_, rfl⟩
  | gen => simp only [exec, execGen]; split <;> exact ⟨_, rfl⟩
  | xor d => simp only [exec, execXor]; split <;> exact ⟨_, rfl⟩
  | stat => exact ⟨_, rfl⟩

/-- Every accepted word has a next state. -/
theorem acceptWord_next (w : Word) (s : State) : ∃ t, acceptWord w s = .next t := by
  unfold acceptWord
  split
  · exact exec_next _ s
  · exact ⟨_, rfl⟩

/-- An illegal word keeps its own opcode field (R74). -/
theorem illegal_opc {w : Word} {o : Opc} (h : decode w = .illegal o) : o = Word.opc w := by
  unfold decode decodeFields at h
  have hf : (Word.fields w).opc = Word.opc w := rfl
  split at h
  · split at h <;> simp_all
  · split at h
    · split at h <;> simp_all
    · split at h
      · split at h <;> simp_all
      · simp_all

/-! ### One edge -/

/-- Everything one edge can do (R39), by rst and PHASE. -/
theorem clockEdge_cases {s t : State} (h : clockEdge s = .next t) :
    (s.pins.rst = true ∧ t = State.resetAt (s.draw + 1) s.inputs.tail) ∨
    (s.pins.rst = false ∧
      ((s.PHASE = .idle ∧ s.pins.cmdValid = true ∧ acceptWord s.pins.cmdData s.consume = .next t) ∨
       (s.PHASE = .idle ∧ s.pins.cmdValid = false ∧ t = s.consume) ∨
       (s.PHASE = .fill ∧ t = fillStep s.consume) ∨
       (s.PHASE = .mix ∧ t = mixStep s.consume) ∨
       (s.PHASE = .resp ∧ s.pins.rspReady = true ∧ t = s.consume.deliver) ∨
       (s.PHASE = .resp ∧ s.pins.rspReady = false ∧ t = s.consume))) := by
  unfold clockEdge phaseEdge at h
  cases hr : s.pins.rst with
  | true =>
    simp only [hr, if_true, Host.Outcome.next.injEq] at h
    exact .inl ⟨rfl, h.symm⟩
  | false =>
    refine .inr ⟨rfl, ?_⟩
    cases hp : s.PHASE <;> cases hv : s.pins.cmdValid <;> cases hy : s.pins.rspReady <;>
      simp_all

end Sys2Proof.Machine
end

