-- ==== Sys2Proof/Laws/PerInstr.lean ====
section
/-! SUPPORT. Statements about every command as syntax, one lemma per constructor. -/

namespace Sys2Proof.Laws

namespace EncodingFields

/-- The encoding carries the command's opcode, RSV = 0 and its operand byte, and its fields are
well-formed (R70, R73). -/
def Statement (i : Instr) : Prop :=
  Word.opc (encode i) = i.opc ∧ Word.rsv (encode i) = 0#4 ∧ Word.imm (encode i) = i.imm ∧
    (Word.fields (encode i)).wf = true

theorem kclr : Statement .kclr := by unfold Statement; decide

theorem kbyte (b : Byte) : Statement (.kbyte b) := by
  simp [Statement, encode, Word.fields, Fields.wf, Fields.opcodeOk, Fields.reservedOk, Fields.operandOk,
    Instr.opc, Instr.imm]

theorem ksa : Statement .ksa := by unfold Statement; decide

theorem gen : Statement .gen := by unfold Statement; decide

theorem xor (d : Byte) : Statement (.xor d) := by
  simp [Statement, encode, Word.fields, Fields.wf, Fields.opcodeOk, Fields.reservedOk, Fields.operandOk,
    Instr.opc, Instr.imm]

theorem stat : Statement .stat := by unfold Statement; decide

end EncodingFields

end Sys2Proof.Laws
end

