-- ==== Sys2Proof/Laws/Step.lean ====
section
/-! SUPPORT. The step and the trace, through `clockEdge`. -/

namespace Sys2Proof.Machine

theorem step_eq (s : State) : step s = clockEdge s := rfl

/-- The step where the pins at this edge are listed. -/
theorem step_cons {s : State} {p : Pins} {ps : List Pins} (h : s.inputs = p :: ps) :
    step s = if p.rst then .next (State.resetAt (s.draw + 1) ps)
      else phaseEdge p { s with inputs := ps } := by
  simp [step, clockEdge, State.pins_cons s p ps h, State.consume_cons s p ps h, State.resetEdge_eq]

theorem trace_succ {s t : State} (h : step s = .next t) (n : Nat) :
    trace (n + 1) s =
      (s.accepted.toList ++ (trace n t).1, s.delivered.toList ++ (trace n t).2) := by
  simp [trace, h]

end Sys2Proof.Machine
end

