-- ==== Sys2Proof/Laws/Transaction.lean ====
section
/-! SUPPORT. The transaction-level view: micro-steps in a row, and sequences of commands. -/

namespace Sys2Proof.Machine

theorem microStep_fill {s : State} (h : s.PHASE = .fill) : microStep s = fillStep s := by
  simp [microStep, h]

theorem microStep_mix {s : State} (h : s.PHASE = .mix) : microStep s = mixStep s := by
  simp [microStep, h]

/-- A response that waits is not touched by micro-steps. -/
theorem microSteps_resp {s : State} (h : s.PHASE = .resp) (n : Nat) : microSteps n s = s := by
  induction n with
  | zero => rfl
  | succ n ih => simp [microSteps, microStep, h, ih]

theorem microSteps_add (m n : Nat) (s : State) :
    microSteps (m + n) s = microSteps n (microSteps m s) := by
  induction m generalizing s with
  | zero => simp [microSteps]
  | succ m ih => rw [Nat.succ_add]; exact ih (microStep s)

/-- A micro-step after `n` micro-steps. -/
theorem microSteps_succ (n : Nat) (s : State) : microSteps (n + 1) s = microStep (microSteps n s) :=
  microSteps_add n 1 s

/-- The counter before its last value counts without wrapping. -/
theorem toNat_counter_succ {c : Byte} (h : c ≠ 0xFF#8) : (c + 1#8).toNat = c.toNat + 1 := by
  have hc : c.toNat ≠ 255 := fun e => h (BitVec.eq_of_toNat_eq e)
  have := c.isLt
  simp only [BitVec.toNat_add, BitVec.toNat_ofNat]
  omega

/-- MIX ends with the KSA's answer, whatever the remaining number of micro-steps beyond it. -/
theorem microSteps_mix_end (k : Nat) (s : State) (hp : s.PHASE = .mix) (hk : 256 - s.KC.toNat ≤ k) :
    (microSteps k s).PHASE = .resp ∧ (microSteps k s).RSP = 0x3000#16 := by
  induction k generalizing s with
  | zero => have := s.KC.isLt; omega
  | succ k ih =>
    simp only [microSteps, microStep_mix hp]
    by_cases hc : s.KC = 0xFF#8
    · rw [mixStep_last hc, microSteps_resp rfl]
      exact ⟨rfl, rfl⟩
    · rw [mixStep_next hc]
      refine ih _ hp ?_
      simp only [toNat_counter_succ hc]
      omega

/-- FILL and then MIX end with the KSA's answer. -/
theorem microSteps_fill_end (k : Nat) (s : State) (hp : s.PHASE = .fill) (hk : 512 - s.KC.toNat ≤ k) :
    (microSteps k s).PHASE = .resp ∧ (microSteps k s).RSP = 0x3000#16 := by
  induction k generalizing s with
  | zero => have := s.KC.isLt; omega
  | succ k ih =>
    simp only [microSteps, microStep_fill hp]
    by_cases hc : s.KC = 0xFF#8
    · rw [fillStep_last hc]
      refine microSteps_mix_end k _ rfl ?_
      rw [hc] at hk
      simp only [BitVec.toNat_ofNat] at hk ⊢
      omega
    · rw [fillStep_next hc]
      refine ih _ hp ?_
      simp only [toNat_counter_succ hc]
      omega

/-- A word answered at its accepting edge is answered so at the transaction level. -/
theorem transact_of_resp {w : Word} {s t : State} (h : acceptWord w s = .next t) (hp : t.PHASE = .resp) :
    transact w s = .next t := by
  simp [transact, h, microSteps_resp hp]

theorem transact_of_accept {w : Word} {s t : State} (h : acceptWord w s = .next t) :
    transact w s = .next (microSteps 512 t) := by
  simp [transact, h]

/-- Every word has a transaction. -/
theorem transact_next (w : Word) (s : State) : ∃ t, transact w s = .next t := by
  obtain ⟨t, h⟩ := acceptWord_next w s
  exact ⟨_, transact_of_accept h⟩

theorem runCommands_cons {w : Word} {ws : List Word} {s t u : State} {rs : List Word}
    (h : transact w s = .next t) (hr : runCommands ws t.deliver = .next (u, rs)) :
    runCommands (w :: ws) s = .next (u, t.RSP :: rs) := by
  simp [runCommands, h, hr]

/-- Every sequence of commands runs to its end. -/
theorem runCommands_next (ws : List Word) (s : State) : ∃ t rs, runCommands ws s = .next (t, rs) := by
  induction ws generalizing s with
  | nil => exact ⟨s, [], rfl⟩
  | cons w ws ih =>
    obtain ⟨t, ht⟩ := transact_next w s
    obtain ⟨u, rs, hu⟩ := ih t.deliver
    exact ⟨u, _, runCommands_cons ht hu⟩

/-- What a sequence of commands that begins with `w` did. -/
theorem runCommands_cons_inv {w : Word} {ws : List Word} {s u : State} {rs : List Word}
    (h : runCommands (w :: ws) s = .next (u, rs)) :
    ∃ t rs', transact w s = .next t ∧ runCommands ws t.deliver = .next (u, rs') ∧
      rs = t.RSP :: rs' := by
  obtain ⟨t, ht⟩ := transact_next w s
  simp only [runCommands, ht] at h
  split at h
  · next heq => simp only [Host.Outcome.next.injEq, Prod.mk.injEq] at h; exact ⟨t, _, ht, h.1 ▸ heq, h.2.symm⟩
  · cases h
  · cases h

/-- Two sequences of commands, one after the other. -/
theorem runCommands_append {ws vs : List Word} {s t u : State} {rs qs : List Word}
    (h : runCommands ws s = .next (t, rs)) (hv : runCommands vs t = .next (u, qs)) :
    runCommands (ws ++ vs) s = .next (u, rs ++ qs) := by
  induction ws generalizing s rs with
  | nil =>
    simp only [runCommands, Host.Outcome.next.injEq, Prod.mk.injEq] at h
    obtain ⟨rfl, rfl⟩ := h
    exact hv
  | cons w ws ih =>
    obtain ⟨t', rs', ht, hr, rfl⟩ := runCommands_cons_inv h
    exact runCommands_cons ht (ih hr)

end Sys2Proof.Machine
end

