-- ==== Sys2Proof/Tests/Slice0.lean ====
section
/-! SUPPORT. The model's own tests: well-formedness, decoding of words written from the spec, single steps
against the spec's vectors (95_test_vectors.md), and for every statement with hypotheses a state and operands
that meet all of them. -/

namespace Sys2Proof.Tests

open Sys2Proof.Machine

/-! ### Well-formedness -/

/-- R73: no command has the opcode 0x0. -/
theorem test_wf_opcode_zero : Fields.wf { opc := 0x0#4, rsv := 0#4, imm := 0x00#8 } = false := by decide

/-- R73: no command has the opcode 0x7. -/
theorem test_wf_opcode_seven : Fields.wf { opc := 0x7#4, rsv := 0#4, imm := 0x00#8 } = false := by decide

/-- R70: RSV must be 0. -/
theorem test_wf_reserved : Fields.wf { opc := 0x2#4, rsv := 1#4, imm := 0x4B#8 } = false := by decide

/-- R70: IMM must be 0x00 for KCLR. -/
theorem test_wf_operand : Fields.wf { opc := 0x1#4, rsv := 0#4, imm := 0x01#8 } = false := by decide

/-- KBYTE 'K' is a legal command. -/
theorem test_wf_kbyte : Fields.wf { opc := 0x2#4, rsv := 0#4, imm := 0x4B#8 } = true := by decide

/-! ### Decoding (R70, R73, R79; L2.1): the words are written from the fields OPC, RSV, IMM -/

theorem test_decode_kclr : decode 0b0001_0000_00000000#16 = .command .kclr := by decide

theorem test_decode_kbyte : decode 0b0010_0000_01001011#16 = .command (.kbyte 0x4B#8) := by decide

theorem test_decode_ksa : decode 0b0011_0000_00000000#16 = .command .ksa := by decide

theorem test_decode_gen : decode 0b0100_0000_00000000#16 = .command .gen := by decide

theorem test_decode_xor : decode 0b0101_0000_01010000#16 = .command (.xor 0x50#8) := by decide

theorem test_decode_stat : decode 0b0110_0000_00000000#16 = .command .stat := by decide

theorem test_decode_zero : decode 0x0000#16 = .illegal 0x0#4 := by decide

theorem test_decode_imm : decode 0x6080#16 = .illegal 0x6#4 := by decide

theorem test_decode_rsv : decode 0x5100#16 = .illegal 0x5#4 := by decide

theorem test_decode_opc : decode 0x9ABC#16 = .illegal 0x9#4 := by decide

theorem test_decode_table_word : decodeTableWord 16 0x204B = some (.kbyte 0x4B#8) := by decide

theorem test_decode_bytes :
    decodeBytes [0x20#8, 0x4B#8, 0x30#8] = some (.command (.kbyte 0x4B#8), [0x30#8]) := by decide

/-! ### Assembler (R79, R80) -/

theorem test_parse_kbyte :
    parseLine ['K', 'B', 'Y', 'T', 'E', ' ', '\'', 'K', '\'', ' ', ';', 'k'] =
      some (.command (.kbyte 0x4B#8)) := by decide

theorem test_parse_word :
    parseLine ['.', 'w', 'o', 'r', 'd', ' ', '0', 'x', 'F', '2', 'A', 'B'] = some (.word 0xF2AB#16) := by
  decide

theorem test_parse_init :
    (parseLine ['I', 'N', 'I', 'T', ' ', '"', 'K', 'e', 'y', '"']).map Line.words =
      some [0x1000#16, 0x204B#16, 0x2065#16, 0x2079#16, 0x3000#16] := by decide

/-! ### States and pins -/

/-- Pins that offer a word. -/
def offer (w : Word) : Pins := { rst := false, cmdValid := true, cmdData := w, rspReady := false }

/-- Pins that take a response. -/
def take : Pins := { rst := false, cmdValid := false, cmdData := 0#16, rspReady := true }

/-- Pins with rst = 1, with a word offered and a response asked for besides. -/
def resetPins : Pins := { rst := true, cmdValid := true, cmdData := 0x6000#16, rspReady := true }

/-- An idle engine without a key: identity arrays, so that every read can be evaluated. -/
def idle : State := { State.reset with S := Bytes.identity, K := Bytes.identity }

/-- A ready engine: S is the identity but for the entries of call 1 of L2.4's trace for "Key". -/
def ready : State :=
  { idle with
    RDY := true
    KLEN := 3#9
    S := ((Bytes.identity.write 0x01#8 0x33#8).write 0x33#8 0x4E#8).write 0x81#8 0xEB#8 }

/-- A ready engine whose S is the identity, so that S is a permutation and the first cursors are equal. -/
def plain : State := { idle with RDY := true, KLEN := 256#9 }

/-- An engine in the schedule of the key "Key". -/
def scheduling (ph : Phase) (kc : Byte) : State :=
  { idle with
    KLEN := 3#9
    K := ((Bytes.identity.write 0x00#8 0x4B#8).write 0x01#8 0x65#8).write 0x02#8 0x79#8
    PHASE := ph
    KC := kc }

/-- An engine whose response waits. -/
def answered : State := { idle with PHASE := .resp, RSP := 0x1000#16 }

/-- The state a step answers with, where it answers with one. -/
def result (o : Host.Outcome State Fault Refusal) : Option State :=
  match o with
  | .next t => some t
  | .fault _ => none
  | .refused _ => none

/-! ### Single steps, against 95_test_vectors.md -/

/-- L2.1: `6000` right after reset. -/
theorem test_step_stat : (result (step (State.reset.withFetchWord 16 0x6000))).map (·.RSP) =
    some 0x6002#16 := by decide

/-- L2.1: `2000` right after reset writes K[0] and grows KLEN. -/
theorem test_step_kbyte : (result (step { idle with K := Bytes.identity.write 0x00#8 0x77#8, inputs := [offer 0x2001#16] })).map
    (fun t => (t.RSP, t.KLEN, t.K.read 0x00#8, t.status)) =
    some (0x2000#16, 1#9, 0x01#8, 0x00#8) := by decide

/-- L2.2: the 257th byte is discarded and sets KOVR. -/
theorem test_step_kbyte_full : (result (step { idle with KLEN := 256#9, inputs := [offer 0x20AA#16] })).map
    (fun t => (t.RSP, t.KLEN, t.K.read 0x00#8, t.status)) =
    some (0x2000#16, 256#9, 0x00#8, 0x0C#8) := by decide

/-- L2.2: KCLR after an overflow. -/
theorem test_step_kclr :
    (result (step { idle with KLEN := 256#9, KOVR := true, inputs := [offer 0x1000#16] })).map
      (fun t => (t.RSP, t.status)) = some (0x1000#16, 0x02#8) := by decide

/-- L2.3: KSA with no key. -/
theorem test_step_ksa_empty : (result (step (State.reset.withFetchWord 16 0x3000))).map
    (fun t => (t.RSP, t.PHASE)) = some (0x3103#16, .resp) := by decide

/-- L2.3, the trace for "Key" at KC = 00: KJ = 4B, KX = 01, S[00] = 4B and S[4B] = 00. -/
theorem test_step_mix : (result (step (scheduling .mix 0x00#8))).map
    (fun t => (t.KC, t.KJ, t.KX, t.S.read 0x00#8, t.S.read 0x4B#8, t.PHASE)) =
    some (0x01#8, 0x4B#8, 0x01#8, 0x4B#8, 0x00#8, .mix) := by decide

/-- L2.4, call 1 of the trace for "Key". -/
theorem test_step_gen : (result (step { ready with inputs := [offer 0x4000#16] })).map
    (fun t => (t.RSP, t.CI, t.CJ, t.S.read 0x01#8, t.S.read 0x33#8)) =
    some (0x40EB#16, 0x01#8, 0x33#8, 0x4E#8, 0x33#8) := by decide

/-- L2.5: XOR 'P' as the first command of the stream. -/
theorem test_step_xor : (result (step { ready with inputs := [offer 0x5050#16] })).map (·.RSP) =
    some 0x50BB#16 := by decide

/-- L2.5: XOR after reset. -/
theorem test_step_xor_not_ready : (result (step (State.reset.withFetchWord 16 0x5050))).map (·.RSP) =
    some 0x5102#16 := by decide

/-- R181's example. -/
theorem test_step_illegal : (result (step { ready with inputs := [offer 0xF2AB#16] })).map
    (fun t => (t.RSP, t.CI, t.status)) = some (0xF101#16, 0x00#8, 0x01#8) := by decide

/-! ### Witnesses: for each statement with hypotheses, a state and operands that meet them together -/

theorem witness_EncodeOfDecode : decode 0x20FF#16 = .command (.kbyte 0xFF#8) := by decide

theorem witness_WordsOutsideTheMapAreIllegal : ¬ ∃ i, decode 0x7000#16 = .command i := by
  rintro ⟨i, h⟩
  rw [show decode 0x7000#16 = .illegal 0x7#4 by decide] at h
  cases h

theorem witness_KclrEmptiesTheKeyBuffer :
    Word.opc 0x1001#16 = 0x1#4 ∧ (0x1001#16 : Word) ≠ 0x1000#16 := by decide

/-- Both ends of the range of illegal words, and KLEN at both sides of 256. -/
theorem witness_KbyteAppendsOrDiscards :
    (0x2100#16 : Word) ≤ 0x2100#16 ∧ (0x2FFF#16 : Word) ≤ 0x2FFF#16 ∧
    { idle with KLEN := 255#9 }.KLEN < 256#9 ∧ ¬ { idle with KLEN := 256#9 }.KLEN < 256#9 := by decide

theorem witness_KeyBufferHoldsTheKeySent :
    (∀ w ∈ [0x204B#16, 0x6000#16, 0x2065#16], decode w ≠ .command .kclr) ∧
    State.reset.KLEN = 0#9 ∧ State.reset.KOVR = false :=
  ⟨List.forall_mem_cons.2 ⟨by decide, List.forall_mem_cons.2
    ⟨by decide, List.forall_mem_cons.2 ⟨by decide, List.forall_mem_nil _⟩⟩⟩, rfl, rfl⟩

theorem witness_KeyLoadingIsApartFromTheStream :
    (Instr.kclr = .kclr ∨ ∃ b, Instr.kclr = .kbyte b) ∧
    exec .kclr plain = .next { plain with KLEN := 0#9, RSP := 0x1000#16, PHASE := .resp } :=
  ⟨.inl rfl, rfl⟩

theorem witness_RekeyingDrawsFromTheOldStream :
    ready.RDY = true ∧
    (∀ v ∈ [(0x1000#16 : Word), 0x2033#16],
      decode v = .command .kclr ∨ ∃ b, decode v = .command (.kbyte b)) ∧
    (decode 0x4000#16 = .command .gen ∨ ∃ d, decode 0x4000#16 = .command (.xor d)) := by
  refine ⟨rfl, ?_, .inl (by decide)⟩
  intro v hv
  simp only [List.mem_cons, List.not_mem_nil, or_false] at hv
  obtain rfl | rfl := hv
  · exact .inl (by decide)
  · exact .inr ⟨0x33#8, by decide⟩

theorem witness_KsaStartsTheSchedule : ready.KLEN ≠ 0#9 := by decide

theorem witness_KsaRefusesAnEmptyKey : State.reset.KLEN = 0#9 := by decide

/-- At the first and at the last entry. -/
theorem witness_FillMakesTheIdentity :
    take.rst = false ∧
    ({ scheduling .fill 0x00#8 with inputs := [take] } : State).PHASE = .fill ∧
    ({ scheduling .fill 0x00#8 with inputs := [take] } : State).KC = 0x00#8 ∧
    ({ scheduling .fill 0xFF#8 with inputs := [take] } : State).PHASE = .fill ∧
    ({ scheduling .fill 0xFF#8 with inputs := [take] } : State).KC = 0xFF#8 ∧
    ({ scheduling .fill 0xFF#8 with inputs := [take] } : State).inputs = take :: [] := by decide

/-- At the first and at the last entry, and where `t = KC`. -/
theorem witness_MixSwapsTwoEntries :
    take.rst = false ∧
    ({ scheduling .mix 0xFF#8 with inputs := [take] } : State).PHASE = .mix ∧
    ({ scheduling .mix 0xFF#8 with inputs := [take] } : State).KC = 0xFF#8 ∧
    ({ scheduling .mix 0xFF#8 with inputs := [take] } : State).inputs = take :: [] ∧
    mixIndex { idle with PHASE := .mix } = 0x00#8 := by decide

/-- With the shortest and with the longest key. -/
theorem witness_KeyIndexIsCounterModKeyLength :
    ({ scheduling .mix 0x00#8 with KLEN := 1#9 } : State).PHASE = .mix ∧
    ({ scheduling .mix 0x00#8 with KLEN := 1#9 } : State).KC = 0x00#8 ∧
    ({ scheduling .mix 0x00#8 with KLEN := 1#9 } : State).KX = 0x00#8 ∧
    1#9 ≤ ({ scheduling .mix 0x00#8 with KLEN := 1#9 } : State).KLEN ∧
    ({ scheduling .mix 0x00#8 with KLEN := 256#9 } : State).KLEN ≤ 256#9 := by decide

/-- With the shortest and with the longest key. -/
theorem witness_KsaRunsTheDocumentsSchedule :
    ({ idle with KLEN := 1#9 } : State).KLEN ≠ 0#9 ∧ ({ idle with KLEN := 1#9 } : State).KLEN ≤ 256#9 ∧
    plain.KLEN ≠ 0#9 ∧ plain.KLEN ≤ 256#9 := by decide

theorem witness_InitIsTheDocumentsInitialize : [(0x4B#8 : Byte)] ≠ [] := by decide

theorem witness_LongKeysActAsTheirFirst256Bytes : 256 < (List.replicate 257 (0x00#8 : Byte)).length := by
  rw [List.length_replicate]
  decide

theorem witness_ShortKeysCycle :
    List.replicate 255 (0x4B#8 : Byte) ≠ [] ∧ (List.replicate 255 (0x4B#8 : Byte)).length < 256 ∧
    1 ≤ 1 ∧ 1 ≤ 256 ∧ 256 ≤ 256 := by
  rw [List.length_replicate]
  exact ⟨List.cons_ne_nil _ _, by decide⟩

theorem witness_KclrKsaAndStatAreIdempotent :
    (Instr.ksa = .kclr ∨ Instr.ksa = .ksa ∨ Instr.ksa = .stat) ∧
    ∃ t, transact (encode .ksa) ready = .next t :=
  ⟨.inr (.inl rfl), transact_next _ _⟩

theorem witness_GenIsOnePrgaStep : ready.RDY = true := rfl

theorem witness_XorIsOnePrgaStepOnData : ready.RDY = true := rfl

theorem witness_NotReadyRefusesGenAndXor : State.reset.RDY = false := rfl

/-- The second clause: a KSA completed from a state with a key, and no word after it. -/
theorem witness_CursorCountsTheKeystream_ksa :
    ∃ t, runCommands (encode .ksa :: []) ready = .next (t, 0x3000#16 :: []) ∧ 0x3000#16 ∉ ([] : List Word) := by
  have ha : acceptWord (encode .ksa) ready =
      .next { ready with RDY := false, CI := 0x00#8, CJ := 0x00#8, KC := 0x00#8, PHASE := .fill } := by rfl
  have he := (microSteps_fill_end 512
    { ready with RDY := false, CI := 0x00#8, CJ := 0x00#8, KC := 0x00#8, PHASE := .fill } rfl (by decide)).2
  have h := runCommands_cons (transact_of_accept ha) (show runCommands [] _ = .next (_, []) from rfl)
  rw [he] at h
  exact ⟨_, h, List.not_mem_nil⟩

/-- The first and the last clause: one GEN. -/
theorem witness_CursorCountsTheKeystream :
    ∃ t u, runCommands [0x4000#16] ready = .next (u, [t.RSP]) ∧ 0x3000#16 ∉ [t.RSP] ∧
      transact 0x4000#16 ready = .next t ∧ isKeystreamResponse t.RSP = true := by
  have h : acceptWord 0x4000#16 ready =
      .next { ready with CI := 0x01#8, CJ := 0x33#8, S := ready.S.swap 0x01#8 0x33#8, PHASE := .resp,
                         RSP := 0x40EB#16 } := by rfl
  have ht := transact_of_resp h rfl
  exact ⟨_, _, runCommands_cons ht rfl, by decide, ht, by decide⟩

theorem witness_EqualCursorsSwapNothing :
    plain.RDY = true ∧ plain.CJ + plain.S.read (plain.CI + 1#8) = plain.CI + 1#8 := by decide

theorem witness_ApplyIsTheDocumentsApplyKeystream : ready.RDY = true := rfl

/-- An XOR word and a STAT word, from a state that is ready. -/
theorem witness_ChunksMakeOneStream :
    (∀ w ∈ [(0x5050#16 : Word), 0x6000#16], decode w ≠ .command .ksa) ∧
    (ready.RDY = true → ∀ w ∈ [(0x5050#16 : Word), 0x6000#16], decode w ≠ .command .gen) ∧
    ∃ t rs, runCommands [0x5050#16, 0x6000#16] ready = .next (t, rs) :=
  ⟨List.forall_mem_cons.2 ⟨by decide, List.forall_mem_cons.2 ⟨by decide, List.forall_mem_nil _⟩⟩,
    fun _ => List.forall_mem_cons.2 ⟨by decide, List.forall_mem_cons.2 ⟨by decide, List.forall_mem_nil _⟩⟩,
    runCommands_next _ _⟩

theorem witness_DecryptionUndoesEncryption : [(0x4B#8 : Byte), 0x65#8, 0x79#8] ≠ [] := by decide

theorem plain_permutation : plain.S.IsPermutation := by
  intro v
  refine ⟨v, Bytes.read_identity v, fun y hy => ?_⟩
  rw [← Bytes.read_identity y]
  exact hy

/-- A state with RDY = 1 that meets the invariants. -/
theorem plain_inv : plain.Inv where
  klen_le := by decide
  kovr_full := by decide
  schedule_control := by decide
  fill_identity := by intro h; cases h
  mix_index := by intro h; cases h
  ready_permutation := fun _ => plain_permutation
  mix_permutation := by intro h; cases h

/-- A state in MIX that meets the invariants. -/
theorem scheduling_inv : ({ plain with PHASE := .mix, RDY := false } : State).Inv where
  klen_le := by decide
  kovr_full := by decide
  schedule_control := fun _ => by decide
  fill_identity := by intro h; cases h
  mix_index := fun _ => by decide
  ready_permutation := by intro h; cases h
  mix_permutation := fun _ => plain_permutation

theorem witness_StatusTakesEightValues : plain.Inv := plain_inv

theorem witness_IllegalWordOnlyAnswers : decode 0x2FFF#16 = .illegal 0x2#4 := by decide

theorem witness_RefusedCommandsChangeNothing :
    acceptWord 0x4000#16 idle = .next { idle with RSP := 0x4102#16, PHASE := .resp } ∧
    (0x4102#16 : Word).getLsbD 8 = true := ⟨rfl, by decide⟩

/-- A reset edge, and one offered word for each of the checks. -/
theorem witness_ErrorsAreCheckedInOrder :
    ({ idle with inputs := [resetPins] } : State).inputs = resetPins :: [] ∧ idle.PHASE = .idle ∧
    resetPins.rst = true ∧ (offer 0x4100#16).rst = false ∧ (offer 0x4100#16).cmdValid = true ∧
    decode (offer 0x4100#16).cmdData = .illegal 0x4#4 ∧
    decode (offer 0x4000#16).cmdData = .command .gen ∧ idle.RDY = false ∧
    decode (offer 0x50FF#16).cmdData = .command (.xor 0xFF#8) ∧
    decode (offer 0x3000#16).cmdData = .command .ksa ∧ idle.KLEN = 0#9 := by decide

/-- Two reset edges, in the middle of a schedule. -/
theorem witness_ResetEdgeLoadsTheTable :
    ({ scheduling .mix 0x07#8 with inputs := [resetPins, resetPins] } : State).inputs =
      resetPins :: [resetPins] ∧
    resetPins.rst = true := by decide

/-- A command word and an illegal word. -/
theorem witness_StepRunsTheDecodedCommand :
    ({ idle with inputs := [offer 0x20FF#16] } : State).inputs = offer 0x20FF#16 :: [] ∧
    idle.PHASE = .idle ∧ (offer 0x20FF#16).rst = false ∧ (offer 0x20FF#16).cmdValid = true ∧
    decode (offer 0x20FF#16).cmdData = .command (.kbyte 0xFF#8) ∧
    decode (offer 0x0000#16).cmdData = .illegal 0x0#4 := by decide

theorem witness_WordsTransferOnlyWhenReady :
    State.accepted { idle with inputs := [offer 0x6000#16] } = some 0x6000#16 ∧
    (offer 0x6000#16).rst = (offer 0x1000#16).rst ∧
    (offer 0x6000#16).rspReady = (offer 0x1000#16).rspReady ∧
    State.accepted { answered with inputs := [offer 0x6000#16] } = none ∧
    State.accepted { answered with inputs := [offer 0x1000#16] } = none := by decide

/-- A response taken, a response not taken, and no response. -/
theorem witness_ResponsesWaitUntilTaken :
    take.rst = false ∧ ({ answered with inputs := [take] } : State).inputs = take :: [] ∧
    answered.PHASE = .resp ∧ take.rspReady = true ∧ Pins.quiet.rst = false ∧
    Pins.quiet.rspReady = false ∧ idle.PHASE ≠ .resp := by decide

theorem witness_PhaseMovesAsTheTableSays :
    ({ ready with inputs := [offer 0x3000#16] } : State).inputs = offer 0x3000#16 :: [] ∧
    ∃ t, step { ready with inputs := [offer 0x3000#16] } = .next t ∧ t.PHASE = .fill :=
  ⟨rfl, _, rfl, rfl⟩

/-- A KSA, and one edge after it. -/
theorem witness_EveryWordCompletesInBoundedTime :
    ready.PHASE = .idle ∧
    ({ ready with inputs := [offer 0x3000#16, take] } : State).inputs = offer 0x3000#16 :: [take] ∧
    (offer 0x3000#16).offers 0x3000#16 ∧ NoReset [take] ∧ 0 < 1 ∧ 1 < 513 ∧
    ∃ t, Host.Core.run Sys2Proof.core 1 { ready with inputs := [offer 0x3000#16, take] } = .next t := by
  refine ⟨rfl, rfl, ⟨rfl, rfl, rfl⟩, ?_, by decide, by decide, _, rfl⟩
  intro p hp
  simp only [List.mem_cons, List.not_mem_nil, or_false] at hp
  subst hp
  rfl

theorem witness_ResponsesDependOnTheWordsAlone : idle.PHASE = .idle ∧ NoReset idle.inputs :=
  ⟨rfl, fun _ h => nomatch h⟩

/-- A state in MIX, and its step. -/
theorem witness_StepKeepsTheInvariants :
    ({ plain with PHASE := .mix, RDY := false } : State).Inv ∧
    ∃ t, step { plain with PHASE := .mix, RDY := false } = .next t := ⟨scheduling_inv, _, rfl⟩

theorem witness_ReachableStatesMeetTheInvariants :
    ∃ t, Host.Core.run Sys2Proof.core 1 (State.resetAt 0 [offer 0x2001#16]) = .next t ∧ t.KLEN = 1#9 :=
  ⟨_, rfl, rfl⟩

/-- Two states in MIX that differ in an entry of K above KLEN. -/
theorem witness_StepKeepsUnobservedUnobserved :
    ∃ s t : State, s.Inv ∧ t.Inv ∧ SameView s t ∧ s.K ≠ t.K := by
  refine ⟨{ plain with PHASE := .mix, RDY := false, KLEN := 1#9 },
    { plain with PHASE := .mix, RDY := false, KLEN := 1#9, K := Bytes.identity.write 0x01#8 0xFF#8 },
    { scheduling_inv with
        klen_le := by decide, kovr_full := by decide, schedule_control := fun _ => by decide,
        mix_index := fun _ => by decide },
    { scheduling_inv with
        klen_le := by decide, kovr_full := by decide, schedule_control := fun _ => by decide,
        mix_index := fun _ => by decide }, ?_, ?_⟩
  · refine ⟨rfl, rfl, rfl, rfl, rfl, rfl, rfl, rfl, rfl, rfl, rfl, fun _ => rfl, ?_, ?_⟩
    · intro h; cases h
    · intro x hx
      have hx : x.toNat < 1 := hx
      have h0 : x = 0#8 := BitVec.eq_of_toNat_eq (by simp; omega)
      subst h0
      decide
  · intro h
    have := congrArg (fun m => Bytes.read m 0x01#8) h
    revert this
    decide

/-- A KBYTE writes an entry of K; a GEN writes entries of S. -/
theorem witness_CommandsChangeOnlyTheirEntries :
    (∃ t, acceptWord 0x20FF#16 idle = .next t ∧ t.K.read 0x00#8 ≠ idle.K.read 0x00#8) ∧
    ∃ t, acceptWord 0x4000#16 ready = .next t ∧ t.S.read 0x01#8 ≠ ready.S.read 0x01#8 :=
  ⟨⟨_, rfl, by decide⟩, _, rfl, by decide⟩

theorem witness_CommandsWriteOnlyTheirRegisters : ∃ t, exec (.xor 0x50#8) ready = .next t := ⟨_, rfl⟩

theorem witness_IdleKeepsEveryBit :
    ({ idle with inputs := [take] } : State).inputs = take :: [] ∧ take.rst = false ∧
    take.cmdValid = false ∧ idle.PHASE = .idle := by decide

end Sys2Proof.Tests
end

section
/-! Rules for the commands and the micro-steps: an equation for each branch of a command, and that the list of
inputs still to come is carried along and never read (the model's own field, log entry 3). -/

namespace Sys2Proof.Machine

/-! ### One equation for each branch of a command -/

theorem acceptWord_command {w : Word} {i : Instr} (h : decode w = .command i) (s : State) :
    acceptWord w s = exec i s := by
  simp [acceptWord, h]

theorem acceptWord_illegal {w : Word} {o : Opc} (h : decode w = .illegal o) (s : State) :
    acceptWord w s = .next (s.raise o .illegal) := by
  simp [acceptWord, h, execIllegal]

theorem exec_kclr (s : State) :
    exec .kclr s = .next ({ s with KLEN := 0#9, KOVR := false }.respond 0x1#4 0#8) := rfl

theorem exec_kbyte_room {s : State} (h : s.KLEN < Config.kmax) (b : Byte) :
    exec (.kbyte b) s =
      .next ({ s.writeK (keyWriteIndex s.KLEN) b with KLEN := s.KLEN + 1#9 }.respond 0x2#4 0#8) := by
  simp [exec, execKbyte, h]

theorem exec_kbyte_full {s : State} (h : ¬ s.KLEN < Config.kmax) (b : Byte) :
    exec (.kbyte b) s = .next ({ s with KOVR := true }.respond 0x2#4 0#8) := by
  simp [exec, execKbyte, h]

theorem exec_ksa_empty {s : State} (h : s.KLEN = 0#9) :
    exec .ksa s = .next (s.raise 0x3#4 .emptyKey) := by
  simp [exec, execKsa, h]

theorem exec_ksa_key {s : State} (h : s.KLEN ≠ 0#9) :
    exec .ksa s = .next { s with RDY := false, CI := 0#8, CJ := 0#8, KC := 0#8, PHASE := .fill } := by
  simp [exec, execKsa, h]

theorem exec_gen_notReady {s : State} (h : s.RDY = false) :
    exec .gen s = .next (s.raise 0x4#4 .notReady) := by
  simp [exec, execGen, h]

theorem exec_gen_ready {s : State} (h : s.RDY = true) :
    exec .gen s = .next ((prga s).1.respond 0x4#4 (prga s).2) := by
  simp [exec, execGen, h]

theorem exec_xor_notReady {s : State} (h : s.RDY = false) (d : Byte) :
    exec (.xor d) s = .next (s.raise 0x5#4 .notReady) := by
  simp [exec, execXor, h]

theorem exec_xor_ready {s : State} (h : s.RDY = true) (d : Byte) :
    exec (.xor d) s = .next ((prga s).1.respond 0x5#4 (d ^^^ (prga s).2)) := by
  simp [exec, execXor, h]

theorem exec_stat (s : State) : exec .stat s = .next (s.respond 0x6#4 s.status) := rfl

/-- The phase after an accepted word: the schedule of a KSA with a key, and otherwise its response (R28). -/
theorem acceptWord_phase {w : Word} {s t : State} (h : acceptWord w s = .next t) :
    t.PHASE = if decode w = .command .ksa ∧ s.KLEN ≠ 0#9 then .fill else .resp := by
  obtain ⟨hd, rfl⟩ | ⟨b, hd, -, rfl⟩ | ⟨b, hd, -, rfl⟩ | ⟨hd, hk, rfl⟩ | ⟨hd, hk, rfl⟩ | ⟨hd, -, rfl⟩ |
    ⟨hd, -, rfl⟩ | ⟨d, hd, -, rfl⟩ | ⟨d, hd, -, rfl⟩ | ⟨hd, rfl⟩ | ⟨o, hd, rfl⟩ := acceptWord_cases h <;>
    simp [*]

/-! ### The phase after a micro-step, and the next edge -/

@[simp] theorem fillStep_PHASE (s : State) :
    (fillStep s).PHASE = if s.KC = 0xFF#8 then .mix else s.PHASE := by
  by_cases h : s.KC = 0xFF#8
  · rw [fillStep_last h, if_pos h]
  · rw [fillStep_next h, if_neg h]

@[simp] theorem mixStep_PHASE (s : State) :
    (mixStep s).PHASE = if s.KC = 0xFF#8 then .resp else s.PHASE := by
  by_cases h : s.KC = 0xFF#8
  · rw [mixStep_last h, if_pos h]
  · rw [mixStep_next h, if_neg h]

/-- Every edge has a next state. -/
theorem step_next (s : State) : ∃ t, step s = .next t := by
  rw [step_eq, clockEdge]
  split
  · exact ⟨_, rfl⟩
  · unfold phaseEdge
    split
    · split
      · exact acceptWord_next _ _
      · exact ⟨_, rfl⟩
    · exact ⟨_, rfl⟩
    · exact ⟨_, rfl⟩
    · split <;> exact ⟨_, rfl⟩

/-! ### The inputs still to come are carried along -/

/-- The state with another list of inputs still to come. -/
def State.withInputs (s : State) (ps : List Pins) : State := { s with inputs := ps }

@[simp] theorem State.withInputs_PHASE (s : State) (ps : List Pins) :
    (s.withInputs ps).PHASE = s.PHASE := rfl

@[simp] theorem State.withInputs_RSP (s : State) (ps : List Pins) : (s.withInputs ps).RSP = s.RSP := rfl

@[simp] theorem State.withInputs_self (s : State) : s.withInputs s.inputs = s := rfl

@[simp] theorem State.consume_withInputs (s : State) (ps : List Pins) :
    s.consume.withInputs ps = s.withInputs ps := rfl

theorem fillStep_withInputs (s : State) (ps : List Pins) :
    fillStep (s.withInputs ps) = (fillStep s).withInputs ps := by
  by_cases h : s.KC = 0xFF#8
  · rw [fillStep_last h, fillStep_last (s := s.withInputs ps) h]; rfl
  · rw [fillStep_next h, fillStep_next (s := s.withInputs ps) h]; rfl

theorem mixStep_withInputs (s : State) (ps : List Pins) :
    mixStep (s.withInputs ps) = (mixStep s).withInputs ps := by
  by_cases h : s.KC = 0xFF#8
  · rw [mixStep_last h, mixStep_last (s := s.withInputs ps) h]; rfl
  · rw [mixStep_next h, mixStep_next (s := s.withInputs ps) h]; rfl

theorem microStep_withInputs (s : State) (ps : List Pins) :
    microStep (s.withInputs ps) = (microStep s).withInputs ps := by
  cases h : s.PHASE with
  | idle => simp [microStep, h]
  | fill => simp [microStep, h, fillStep_withInputs]
  | mix => simp [microStep, h, mixStep_withInputs]
  | resp => simp [microStep, h]

theorem exec_withInputs {i : Instr} {s t : State} (ps : List Pins) (h : exec i s = .next t) :
    exec i (s.withInputs ps) = .next (t.withInputs ps) := by
  cases i with
  | kclr => cases h; rfl
  | kbyte b =>
    by_cases hk : s.KLEN < Config.kmax
    · rw [exec_kbyte_room hk] at h; cases h; exact exec_kbyte_room (s := s.withInputs ps) hk b
    · rw [exec_kbyte_full hk] at h; cases h; exact exec_kbyte_full (s := s.withInputs ps) hk b
  | ksa =>
    by_cases hk : s.KLEN = 0#9
    · rw [exec_ksa_empty hk] at h; cases h; exact exec_ksa_empty (s := s.withInputs ps) hk
    · rw [exec_ksa_key hk] at h; cases h; exact exec_ksa_key (s := s.withInputs ps) hk
  | gen =>
    cases hr : s.RDY with
    | false => rw [exec_gen_notReady hr] at h; cases h; exact exec_gen_notReady (s := s.withInputs ps) hr
    | true => rw [exec_gen_ready hr] at h; cases h; exact exec_gen_ready (s := s.withInputs ps) hr
  | xor d =>
    cases hr : s.RDY with
    | false => rw [exec_xor_notReady hr] at h; cases h; exact exec_xor_notReady (s := s.withInputs ps) hr d
    | true => rw [exec_xor_ready hr] at h; cases h; exact exec_xor_ready (s := s.withInputs ps) hr d
  | stat => cases h; rfl

theorem acceptWord_withInputs {w : Word} {s t : State} (ps : List Pins) (h : acceptWord w s = .next t) :
    acceptWord w (s.withInputs ps) = .next (t.withInputs ps) := by
  cases hd : decode w with
  | command i => rw [acceptWord_command hd] at h ⊢; exact exec_withInputs ps h
  | illegal o => rw [acceptWord_illegal hd] at h ⊢; cases h; rfl

theorem acceptWord_inputs {w : Word} {s t : State} (h : acceptWord w s = .next t) : t.inputs = s.inputs := by
  have h' := acceptWord_withInputs s.inputs h
  rw [State.withInputs_self, h, Host.Outcome.next.injEq] at h'
  exact (congrArg State.inputs h' :)

@[simp] theorem fillStep_inputs (s : State) : (fillStep s).inputs = s.inputs :=
  (congrArg State.inputs (fillStep_withInputs s s.inputs) :)

@[simp] theorem mixStep_inputs (s : State) : (mixStep s).inputs = s.inputs :=
  (congrArg State.inputs (mixStep_withInputs s s.inputs) :)

/-- Each edge uses up one entry of the list. -/
theorem step_inputs {s t : State} (h : step s = .next t) : t.inputs = s.inputs.tail := by
  obtain ⟨-, rfl⟩ | ⟨-, ⟨-, -, ha⟩ | ⟨-, -, rfl⟩ | ⟨-, rfl⟩ | ⟨-, rfl⟩ | ⟨-, -, rfl⟩ | ⟨-, -, rfl⟩⟩ :=
    clockEdge_cases h
  case inr.inl => exact acceptWord_inputs ha
  all_goals simp

end Sys2Proof.Machine
end

section
/-! The responses of a run without reset, edge by edge, against the transaction-level view (10_state.md R40). -/

namespace Sys2Proof.Machine

/-! ### Finishing what is under way -/

/-- A micro-step more or less makes no difference once the response waits. -/
theorem microSteps_microStep {n : Nat} {s : State} (h : (microSteps n s).PHASE = .resp) :
    microSteps n (microStep s) = microSteps n s := by
  calc microSteps n (microStep s) = microStep (microSteps n s) := microSteps_succ n s
    _ = microSteps n s := microSteps_resp h 1

/-- Where a command is under way or answered, 512 micro-steps bring its response (R121, R122). -/
theorem microSteps_finish {s : State} (h : s.PHASE ≠ .idle) : (microSteps 512 s).PHASE = .resp := by
  cases hp : s.PHASE with
  | idle => exact absurd hp h
  | fill => exact (microSteps_fill_end 512 s hp (Nat.sub_le ..)).1
  | mix => exact (microSteps_mix_end 512 s hp ((Nat.sub_le ..).trans (by decide))).1
  | resp => rw [microSteps_resp hp, hp]

/-- The transaction-level state of an engine, with the inputs `ps` listed: the command under way is run to its
response, and the response taken. -/
def State.settled (ps : List Pins) (s : State) : State :=
  if s.PHASE = .idle then s.withInputs ps else (microSteps 512 (s.withInputs ps)).deliver

/-- The response still to come or still to be taken, where there is one. -/
def State.owed (ps : List Pins) (s : State) : List Word :=
  if s.PHASE = .idle then [] else [(microSteps 512 (s.withInputs ps)).RSP]

theorem settled_idle {s : State} (h : s.PHASE = .idle) (ps : List Pins) :
    s.settled ps = s.withInputs ps := if_pos h

theorem settled_busy {s : State} (h : s.PHASE ≠ .idle) (ps : List Pins) :
    s.settled ps = (microSteps 512 (s.withInputs ps)).deliver := if_neg h

theorem owed_idle {s : State} (h : s.PHASE = .idle) (ps : List Pins) : s.owed ps = [] := if_pos h

theorem owed_busy {s : State} (h : s.PHASE ≠ .idle) (ps : List Pins) :
    s.owed ps = [(microSteps 512 (s.withInputs ps)).RSP] := if_neg h

theorem owed_length_le (ps : List Pins) (s : State) : (s.owed ps).length ≤ 1 := by
  unfold State.owed
  split <;> simp

@[simp] theorem settled_consume (ps : List Pins) (s : State) : s.consume.settled ps = s.settled ps := rfl

@[simp] theorem owed_consume (ps : List Pins) (s : State) : s.consume.owed ps = s.owed ps := rfl

/-- A waiting response is owed, and taking it settles the engine. -/
theorem owed_resp {s : State} (h : s.PHASE = .resp) (ps : List Pins) : s.owed ps = [s.RSP] := by
  have hw : (s.withInputs ps).PHASE = .resp := h
  rw [owed_busy (by simp [h]), microSteps_resp hw, State.withInputs_RSP]

theorem settled_deliver {s : State} (h : s.PHASE = .resp) (ps : List Pins) :
    s.deliver.settled ps = s.settled ps := by
  have hw : (s.withInputs ps).PHASE = .resp := h
  rw [settled_idle rfl, settled_busy (by simp [h]), microSteps_resp hw]
  rfl

theorem microStep_busy {s : State} (h : s.PHASE ≠ .idle) : (microStep s).PHASE ≠ .idle := by
  cases hp : s.PHASE with
  | idle => exact absurd hp h
  | fill => rw [microStep_fill hp, fillStep_PHASE, hp]; split <;> simp
  | mix => rw [microStep_mix hp, mixStep_PHASE, hp]; split <;> simp
  | resp => simp [microStep, hp]

/-- A micro-step changes neither where a command ends nor what it answers. -/
theorem microStep_keeps_settled {s : State} (h : s.PHASE ≠ .idle) (ps : List Pins) :
    (microStep s).settled ps = s.settled ps ∧ (microStep s).owed ps = s.owed ps := by
  have hf : (microSteps 512 (s.withInputs ps)).PHASE = .resp := microSteps_finish h
  rw [settled_busy (microStep_busy h), owed_busy (microStep_busy h), settled_busy h, owed_busy h,
    ← microStep_withInputs, microSteps_microStep hf]
  exact ⟨rfl, rfl⟩

/-! ### One edge without a reset -/

theorem accepted_busy {s : State} (h : s.PHASE ≠ .idle) : s.accepted = none := by
  simp [State.accepted, State.outputsNow, outputs, h]

theorem delivered_of_ne_resp {s : State} (h : s.PHASE ≠ .resp) : s.delivered = none := by
  simp [State.delivered, State.outputsNow, outputs, h]

theorem accepted_idle {s : State} (h : s.PHASE = .idle) (hr : s.pins.rst = false) :
    s.accepted = if s.pins.cmdValid then some s.pins.cmdData else none := by
  simp [State.accepted, State.outputsNow, outputs, h, hr]

theorem delivered_resp {s : State} (h : s.PHASE = .resp) (hr : s.pins.rst = false) :
    s.delivered = if s.pins.rspReady then some s.RSP else none := by
  simp [State.delivered, State.outputsNow, outputs, h, hr]

/-- At a micro-step nothing crosses a port, and the transaction-level engine stands still. -/
theorem step_settled_micro {s : State} (ps : List Pins) (hi : s.PHASE ≠ .idle) (hr : s.PHASE ≠ .resp) :
    s.accepted = none ∧ (microStep s.consume).settled ps = s.settled ps ∧
      s.owed ps = s.delivered.toList ++ (microStep s.consume).owed ps := by
  obtain ⟨hs, ho⟩ := microStep_keeps_settled (s := s.consume) hi ps
  exact ⟨accepted_busy hi, hs, by rw [delivered_of_ne_resp hr, ho]; rfl⟩

/-- An edge without a reset accepts a word, and the transaction-level engine runs that word to its response; or
it accepts none, and then the transaction-level engine stands still, and what it is owed is delivered first. -/
theorem step_settled {s t : State} (ps : List Pins) (hr : s.pins.rst = false) (h : step s = .next t) :
    (∃ w u, s.accepted = some w ∧ s.delivered = none ∧ s.owed ps = [] ∧
      transact w (s.settled ps) = .next u ∧ t.settled ps = u.deliver ∧ t.owed ps = [u.RSP]) ∨
    (s.accepted = none ∧ t.settled ps = s.settled ps ∧
      s.owed ps = s.delivered.toList ++ t.owed ps) := by
  obtain ⟨hr', -⟩ | ⟨-, ⟨hp, hv, ha⟩ | ⟨hp, hv, rfl⟩ | ⟨hp, rfl⟩ | ⟨hp, rfl⟩ | ⟨hp, hy, rfl⟩ | ⟨hp, hy, rfl⟩⟩ :=
    clockEdge_cases h
  · simp [hr] at hr'
  · have hbusy : t.PHASE ≠ .idle := by rw [acceptWord_phase ha]; split <;> simp
    refine .inl ⟨s.pins.cmdData, _, by simp [accepted_idle hp hr, hv], delivered_of_ne_resp (by simp [hp]),
      owed_idle hp ps, ?_, settled_busy hbusy ps, owed_busy hbusy ps⟩
    rw [settled_idle hp]
    exact transact_of_accept (acceptWord_withInputs (s := s.consume) ps ha)
  · exact .inr ⟨by simp [accepted_idle hp hr, hv], settled_consume ps s,
      by simp [delivered_of_ne_resp (s := s) (by simp [hp])]⟩
  · exact .inr (microStep_fill (s := s.consume) hp ▸ step_settled_micro ps (by simp [hp]) (by simp [hp]))
  · exact .inr (microStep_mix (s := s.consume) hp ▸ step_settled_micro ps (by simp [hp]) (by simp [hp]))
  · exact .inr ⟨accepted_busy (by simp [hp]), settled_deliver (s := s.consume) hp ps,
      by simp [delivered_resp hp hr, hy, owed_resp hp, owed_idle (s := s.consume.deliver) rfl]⟩
  · exact .inr ⟨accepted_busy (by simp [hp]), settled_consume ps s, by simp [delivered_resp hp hr, hy]⟩

/-! ### The whole run -/

theorem NoReset.pins_rst {s : State} (h : NoReset s.inputs) : s.pins.rst = false := by
  cases hi : s.inputs with
  | nil => simp [State.pins, hi, Pins.quiet]
  | cons p rest => rw [State.pins_cons s p rest hi]; exact h p (by simp [hi])

theorem NoReset.step {s t : State} (h : NoReset s.inputs) (hs : step s = .next t) : NoReset t.inputs := by
  rw [step_inputs hs]
  exact fun p hp => h p (List.mem_of_mem_tail hp)

/-- R40 from any phase: the transaction-level engine, run on the accepted words, answers what the edges deliver,
after what is owed at the start; at most one answer is still to come. -/
theorem trace_settled (ps : List Pins) (n : Nat) (s : State) (h : NoReset s.inputs) : ∃ t rs,
    runCommands (trace n s).1 (s.settled ps) = .next (t, rs) ∧ (trace n s).2 <+: s.owed ps ++ rs ∧
    (s.owed ps ++ rs).length ≤ (trace n s).2.length + 1 := by
  induction n generalizing s with
  | zero => exact ⟨_, [], rfl, List.nil_prefix, by simpa [trace] using owed_length_le ps s⟩
  | succ n ih =>
    obtain ⟨t, ht⟩ := step_next s
    obtain ⟨v, rs, hrun, hpre, hlen⟩ := ih t (h.step ht)
    rw [trace_succ ht]
    obtain ⟨w, u, ha, hd, ho, hw, hs, hot⟩ | ⟨ha, hs, ho⟩ := step_settled ps h.pins_rst ht
    · rw [hs] at hrun
      rw [hot] at hpre hlen
      exact ⟨v, u.RSP :: rs, by simpa [ha] using runCommands_cons hw hrun, by simpa [hd, ho] using hpre,
        by simpa [hd, ho] using hlen⟩
    · rw [hs] at hrun
      refine ⟨v, rs, by simpa [ha] using hrun, ?_, ?_⟩
      · rw [ho, List.append_assoc]
        exact (List.prefix_append_right_inj _).2 hpre
      · simp only [ho, List.length_append] at hlen ⊢
        omega

/-- Settles O47: from IDLE nothing is owed, and the engine is its own transaction-level state. -/
theorem responsesDependOnTheWordsAlone : Obligations.ResponsesDependOnTheWordsAlone := by
  intro n s hp h
  have ht := trace_settled s.inputs n s h
  rwa [settled_idle hp, owed_idle hp, State.withInputs_self] at ht

end Sys2Proof.Machine
end

section
/-! The state invariants (10_state.md R42, R21; 44_status.md R180): they hold at reset and
every step keeps them. -/

namespace Sys2Proof.Bytes

/-- The permutation property (R21) is bijectivity of the reads. -/
theorem isPermutation_iff_bijective (m : Bytes) : m.IsPermutation ↔ Function.Bijective m.read :=
  (Function.bijective_iff_existsUnique _).symm

theorem isPermutation_identity : identity.IsPermutation :=
  (isPermutation_iff_bijective _).2
    ⟨fun a b h => by simpa using h, fun v => ⟨v, read_identity v⟩⟩

/-- A swap moves entries and makes or loses none. -/
theorem IsPermutation.swap {m : Bytes} (h : m.IsPermutation) (a b : Byte) : (m.swap a b).IsPermutation := by
  have hread : (m.swap a b).read = m.read ∘ Equiv.swap a b := by
    funext x
    simp only [read_swap, Function.comp_apply, Equiv.swap_apply_def]
    split_ifs <;> simp_all
  rw [isPermutation_iff_bijective] at h ⊢
  rw [hread]
  exact h.comp (Equiv.bijective _)

end Sys2Proof.Bytes

namespace Sys2Proof.Machine

/-- The counter before its last value, at the entries below its successor. -/
theorem lt_counter_succ {c x : Byte} (h : c ≠ 0xFF#8) : x < c + 1#8 ↔ x < c ∨ x = c := by
  have := toNat_counter_succ h
  constructor <;> intro hx <;> bv_omega

/-- R31 on numbers: where KX is KC mod KLEN, the next KX is KC + 1 mod KLEN. -/
theorem nextKeyIndex_mod {kx : Byte} {klen : BitVec 9} {c : Nat} (hk : klen ≠ 0#9)
    (hle : klen ≤ 256#9) (h : kx.toNat = c % klen.toNat) :
    (nextKeyIndex kx klen).toNat = (c + 1) % klen.toNat := by
  have hpos : 0 < klen.toNat := by bv_omega
  have hlt : kx.toNat < klen.toNat := h ▸ Nat.mod_lt _ hpos
  rw [nextKeyIndex_eq, ← Nat.mod_add_mod, ← h]
  split
  · next he => simp [he]
  · next he =>
    rw [Nat.mod_eq_of_lt (by omega)]
    bv_omega

/-- Outside FILL and MIX the invariants are those of the key buffer and of the ready permutation. -/
theorem State.Inv.of_quiet {s : State} (hp : s.PHASE = .idle ∨ s.PHASE = .resp) (hk : s.KLEN ≤ 256#9)
    (ho : s.KOVR = true → s.KLEN = 256#9) (hr : s.RDY = true → s.S.IsPermutation) : s.Inv := by
  have hf : s.PHASE ≠ .fill := by rintro h; simp [h] at hp
  have hm : s.PHASE ≠ .mix := by rintro h; simp [h] at hp
  exact ⟨hk, ho, fun h => (h.elim hf hm).elim, fun h => (hf h).elim, fun h => (hm h).elim, hr,
    fun h => (hm h).elim⟩

/-- The invariants hold after reset, whatever S and K hold (R43). -/
theorem State.Inv.resetWith (d : Nat) (ps : List Pins) (m k : Bytes) :
    ({ State.resetAt d ps with S := m, K := k } : State).Inv :=
  .of_quiet (.inl rfl) (by simp) nofun nofun

theorem State.Inv.resetAt (d : Nat) (ps : List Pins) : (State.resetAt d ps).Inv :=
  .resetWith d ps (State.resetAt d ps).S (State.resetAt d ps).K

/-- They do not speak of the inputs. -/
theorem State.Inv.consume {s : State} (h : s.Inv) : s.consume.Inv := { h with }

theorem State.Inv.deliver {s : State} (h : s.Inv) : s.deliver.Inv :=
  .of_quiet (.inl rfl) h.klen_le h.kovr_full h.ready_permutation

theorem State.Inv.respond {s : State} (h : s.Inv) (o : Opc) (d : Byte) : (s.respond o d).Inv :=
  .of_quiet (.inr rfl) h.klen_le h.kovr_full h.ready_permutation

theorem State.Inv.raise {s : State} (h : s.Inv) (o : Opc) (e : ErrorCode) : (s.raise o e).Inv :=
  .of_quiet (.inr rfl) h.klen_le h.kovr_full h.ready_permutation

/-- The PRGA step moves entries of S and leaves the key buffer alone (R140). -/
theorem State.Inv.prga_respond {s : State} (h : s.Inv) (o : Opc) (d : Byte) :
    ((prga s).1.respond o d).Inv :=
  .of_quiet (.inr rfl) h.klen_le h.kovr_full fun hr => (h.ready_permutation hr).swap _ _

theorem acceptWord_inv {w : Word} {s t : State} (hs : s.Inv) (h : acceptWord w s = .next t) : t.Inv := by
  obtain ⟨-, rfl⟩ | ⟨b, -, hk, rfl⟩ | ⟨b, -, hk, rfl⟩ | ⟨-, -, rfl⟩ | ⟨-, hk, rfl⟩ | ⟨-, -, rfl⟩ |
    ⟨-, -, rfl⟩ | ⟨d, -, -, rfl⟩ | ⟨d, -, -, rfl⟩ | ⟨-, rfl⟩ | ⟨o, -, rfl⟩ := acceptWord_cases h
  · exact .of_quiet (.inr rfl) (by simp) (by simp) hs.ready_permutation
  · have hlt : s.KLEN < 256#9 := hk
    have hle : s.KLEN + 1#9 ≤ 256#9 := by bv_omega
    exact .of_quiet (.inr rfl) hle (fun ho => absurd (hs.kovr_full ho) (BitVec.ne_of_lt hlt))
      hs.ready_permutation
  · have hge : ¬ s.KLEN < 256#9 := hk
    have hle := hs.klen_le
    have heq : s.KLEN = 256#9 := by bv_omega
    exact .of_quiet (.inr rfl) hle (fun _ => heq) hs.ready_permutation
  · exact hs.raise _ _
  · exact ⟨hs.klen_le, hs.kovr_full, fun _ => ⟨hk, rfl, rfl, rfl⟩,
      fun _ x hx => absurd hx BitVec.not_lt_zero, nofun, nofun, nofun⟩
  · exact hs.raise _ _
  · exact hs.prga_respond _ _
  · exact hs.raise _ _
  · exact hs.prga_respond _ _
  · exact hs.respond _ _
  · exact hs.raise _ _

/-- After entry KC is filled, the entries below KC + 1 hold their own index. -/
theorem read_write_filled {m : Bytes} {c : Byte} (h : ∀ x : Byte, x < c → m.read x = x) {x : Byte}
    (hx : x < c ∨ x = c) : (m.write c c).read x = x := by
  rw [Bytes.read_write]
  split
  · next he => exact he.symm
  · next he => exact h x (hx.resolve_right he)

/-- Every entry is filled once the last one is. -/
theorem write_filled_last {m : Bytes} (h : ∀ x : Byte, x < 0xFF#8 → m.read x = x) :
    m.write 0xFF#8 0xFF#8 = Bytes.identity :=
  Bytes.ext_read fun x => by
    rw [read_write_filled h (by bv_omega), Bytes.read_identity]

theorem fillStep_inv {s : State} (hs : s.Inv) (hp : s.PHASE = .fill) : (fillStep s).Inv := by
  have hc := hs.schedule_control (.inl hp)
  have hid := hs.fill_identity hp
  by_cases h : s.KC = 0xFF#8
  · rw [fillStep_last h]
    rw [h] at hid
    have hperm : (s.S.write s.KC s.KC).IsPermutation := by
      rw [h, write_filled_last hid]
      exact Bytes.isPermutation_identity
    exact ⟨hs.klen_le, hs.kovr_full, fun _ => hc, nofun, fun _ => (Nat.zero_mod _).symm, fun _ => hperm,
      fun _ => hperm⟩
  · rw [fillStep_next h]
    exact ⟨hs.klen_le, hs.kovr_full, fun _ => hc,
      fun _ x hx => read_write_filled hid ((lt_counter_succ h).1 hx),
      fun hm => by simp [hp] at hm, fun hr => by simp [hc] at hr, fun hm => by simp [hp] at hm⟩

theorem mixStep_inv {s : State} (hs : s.Inv) (hp : s.PHASE = .mix) : (mixStep s).Inv := by
  have hc := hs.schedule_control (.inr hp)
  have hperm := (hs.mix_permutation hp).swap s.KC (mixIndex s)
  by_cases h : s.KC = 0xFF#8
  · rw [mixStep_last h]
    exact .of_quiet (.inr rfl) hs.klen_le hs.kovr_full fun _ => hperm
  · rw [mixStep_next h]
    refine ⟨hs.klen_le, hs.kovr_full, fun _ => hc, fun hf => by simp [hp] at hf, fun _ => ?_, fun _ => hperm,
      fun _ => hperm⟩
    rw [toNat_counter_succ h]
    exact nextKeyIndex_mod hc.1 hs.klen_le (hs.mix_index hp)

/-- Settles O49: by what an edge can do. -/
theorem stepKeepsTheInvariants : Obligations.StepKeepsTheInvariants := by
  intro s t hs h
  obtain ⟨-, rfl⟩ | ⟨-, ⟨-, -, ha⟩ | ⟨-, -, rfl⟩ | ⟨hp, rfl⟩ | ⟨hp, rfl⟩ | ⟨-, -, rfl⟩ | ⟨-, -, rfl⟩⟩ :=
    clockEdge_cases h
  · exact .resetAt _ _
  · exact acceptWord_inv hs.consume ha
  · exact hs.consume
  · exact fillStep_inv hs.consume hp
  · exact mixStep_inv hs.consume hp
  · exact hs.consume.deliver
  · exact hs.consume

/-- Settles O48: the reset state is the first draw with no inputs. -/
theorem resetMeetsTheInvariants : Obligations.ResetMeetsTheInvariants := State.Inv.resetAt 0 []

/-- A run of one edge more, by its first edge. -/
theorem run_succ {s t : State} (h : step s = .next t) (n : Nat) :
    Host.Core.run Sys2Proof.core (n + 1) s = Host.Core.run Sys2Proof.core n t := by
  have hc : Sys2Proof.core.step s = .next t := h
  simp only [Host.Core.run, hc]

/-- Every edge of a run keeps the invariants. -/
theorem run_inv {n : Nat} {s t : State} (hs : s.Inv) (h : Host.Core.run Sys2Proof.core n s = .next t) :
    t.Inv := by
  induction n generalizing s with
  | zero => cases h; exact hs
  | succ n ih =>
    obtain ⟨u, hu⟩ := step_next s
    rw [run_succ hu] at h
    exact ih (stepKeepsTheInvariants s u hs hu) h

/-- Settles O50: the invariants hold at reset and along every run. -/
theorem reachableStatesMeetTheInvariants : Obligations.ReachableStatesMeetTheInvariants := by
  intro d n ins t h
  have ht : t.Inv := run_inv (.resetAt d ins) h
  refine ⟨ht.klen_le, fun hp => ?_, ht.fill_identity, ht.mix_index,
    fun hp => hp.elim ht.ready_permutation ht.mix_permutation⟩
  obtain ⟨hk, hr, hi, hj⟩ := ht.schedule_control hp
  exact ⟨by bv_omega, ht.klen_le, hr, hi, hj⟩

end Sys2Proof.Machine
end

section
/-! What is never observed (10_state.md R41): a relation of two states that one edge keeps. -/

namespace Sys2Proof.Machine

section View

variable {s t : State}

/-! ### The operations keep the common view -/

/-- An answer ends FILL and MIX, and S is in view only where RDY = 1. -/
theorem SameView.answer (h : SameView s t) (r : Word) :
    SameView { s with RSP := r, PHASE := .resp } { t with RSP := r, PHASE := .resp } :=
  { h with
    phase := rfl
    rsp := rfl
    stream := fun hr => h.stream (.inl (hr.resolve_right nofun))
    filled := nofun }

theorem SameView.respond (h : SameView s t) (o : Opc) (d : Byte) :
    SameView (s.respond o d) (t.respond o d) := h.answer _

theorem SameView.raise (h : SameView s t) (o : Opc) (e : ErrorCode) :
    SameView (s.raise o e) (t.raise o e) := h.answer _

theorem SameView.deliver (h : SameView s t) : SameView s.deliver t.deliver :=
  { h with
    phase := rfl
    stream := fun hr => h.stream (.inl (hr.resolve_right nofun))
    filled := nofun }

theorem SameView.consume (h : SameView s t) : SameView s.consume t.consume :=
  { h with inputs := congrArg List.tail h.inputs }

/-- After reset nothing of S, K and the draw is in view. -/
theorem SameView.resetWith (d d' : Nat) (ps : List Pins) (m k m' k' : Bytes) :
    SameView { State.resetAt d ps with S := m, K := k } { State.resetAt d' ps with S := m', K := k' } :=
  ⟨rfl, rfl, rfl, rfl, rfl, rfl, rfl, rfl, rfl, rfl, rfl, nofun, nofun,
    fun x hx => absurd hx (Nat.not_lt_zero x.toNat)⟩

theorem SameView.status (h : SameView s t) : s.status = t.status := by
  simp only [State.status, State.kfull, State.kempty, h.kovr, h.klen, h.rdy]

/-- With RDY = 1 the PRGA step reads the same S and cursors, so it answers the same byte (R140). -/
theorem SameView.prga (h : SameView s t) (hr : s.RDY = true) :
    SameView (prga s).1 (prga t).1 ∧ (prga s).2 = (prga t).2 := by
  have hS := h.stream (.inl hr)
  have hv : SameView (Machine.prga s).1 (Machine.prga t).1 := by
    simp only [prga_state, ← hS, ← h.ci, ← h.cj]
    exact { h with ci := rfl, cj := rfl, stream := fun _ => rfl, filled := fun _ _ _ => rfl }
  refine ⟨hv, ?_⟩
  rw [prga_byte, prga_byte, hv.stream (.inl hr), hv.ci, hv.cj]

/-- KBYTE below 256 brings K[KLEN] into view, and writes it with the same byte (R101). -/
theorem SameView.appendKey (h : SameView s t) (hk : s.KLEN < Config.kmax) (b : Byte) :
    SameView { s.writeK (keyWriteIndex s.KLEN) b with KLEN := s.KLEN + 1#9 }
      { t.writeK (keyWriteIndex t.KLEN) b with KLEN := t.KLEN + 1#9 } := by
  have hlt : s.KLEN < 256#9 := hk
  rw [← h.klen]
  refine { h with klen := rfl, key := fun x hx => ?_ }
  simp only [State.writeK_K, Bytes.read_write]
  split
  · rfl
  · next hne =>
    refine h.key x ?_
    have hi : (keyWriteIndex s.KLEN).toNat = s.KLEN.toNat := by
      simp only [keyWriteIndex, BitVec.extractLsb'_toNat]
      bv_omega
    simp only [BitVec.toNat_add, BitVec.toNat_ofNat] at hx
    bv_omega

theorem SameView.mixIndex (h : SameView s t) (hs : s.Inv) (hp : s.PHASE = .mix) :
    mixIndex s = mixIndex t := by
  have hlt : s.KX.toNat < s.KLEN.toNat := by
    have hk := (hs.schedule_control (.inr hp)).1
    exact hs.mix_index hp ▸ Nat.mod_lt _ (by bv_omega)
  simp only [Machine.mixIndex, ← h.stream (.inr hp), ← h.kj, ← h.kc, ← h.kx, h.key s.KX hlt]

/-- FILL brings the entries it fills into view; after the last one all of S is (R121). -/
theorem SameView.fillStep (h : SameView s t) (hp : s.PHASE = .fill) :
    SameView (fillStep s) (fillStep t) := by
  have hfill (x : Byte) (hx : x < s.KC ∨ x = s.KC) :
      (s.S.write s.KC s.KC).read x = (t.S.write s.KC s.KC).read x := by
    simp only [Bytes.read_write]
    split
    · rfl
    · next hne => exact h.filled hp x (hx.resolve_right hne)
  by_cases hc : s.KC = 0xFF#8
  · rw [fillStep_last hc, fillStep_last (h.kc ▸ hc), ← h.kc]
    have hS : s.S.write s.KC s.KC = t.S.write s.KC s.KC := Bytes.ext_read fun x => hfill x (by bv_omega)
    exact { h with kc := rfl, kj := rfl, kx := rfl, phase := rfl, stream := fun _ => hS, filled := nofun }
  · rw [fillStep_next hc, fillStep_next (h.kc ▸ hc), ← h.kc]
    exact { h with
      kc := rfl
      stream := fun hr => congrArg (Bytes.write · s.KC s.KC) (h.stream hr)
      filled := fun _ x hx => hfill x ((lt_counter_succ hc).1 hx) }

/-- MIX reads S, which is in view, and a key byte below KLEN (R122). -/
theorem SameView.mixStep (h : SameView s t) (hs : s.Inv) (hp : s.PHASE = .mix) :
    SameView (mixStep s) (mixStep t) := by
  have hi := h.mixIndex hs hp
  have hS := h.stream (.inr hp)
  by_cases hc : s.KC = 0xFF#8
  · rw [mixStep_last hc, mixStep_last (h.kc ▸ hc), ← h.kc, ← h.kx, ← h.klen, ← hi, ← hS]
    exact { h with klen := rfl, kc := rfl, kj := rfl, kx := rfl, rdy := rfl, rsp := rfl, phase := rfl,
                   stream := fun _ => rfl, filled := nofun }
  · rw [mixStep_next hc, mixStep_next (h.kc ▸ hc), ← h.kc, ← h.kx, ← h.klen, ← hi, ← hS]
    exact { h with klen := rfl, kc := rfl, kj := rfl, kx := rfl, stream := fun _ => rfl,
                   filled := fun _ _ _ => rfl }

/-! ### Commands, words and edges keep the common view -/

/-- Both outcomes are next states, with a common view. -/
def NextSameView (a b : Host.Outcome State Fault Refusal) : Prop :=
  ∃ s' t', a = .next s' ∧ b = .next t' ∧ SameView s' t'

theorem SameView.next (h : SameView s t) : NextSameView (.next s) (.next t) := ⟨s, t, rfl, rfl, h⟩

theorem SameView.exec (h : SameView s t) (i : Instr) : NextSameView (exec i s) (exec i t) := by
  cases i with
  | kclr =>
    have hc : SameView { s with KLEN := 0#9, KOVR := false } { t with KLEN := 0#9, KOVR := false } :=
      { h with klen := rfl, kovr := rfl, key := fun x hx => absurd hx (Nat.not_lt_zero x.toNat) }
    exact (hc.respond _ _).next
  | kbyte b =>
    by_cases hk : s.KLEN < Config.kmax
    · rw [exec_kbyte_room hk, exec_kbyte_room (h.klen ▸ hk)]
      exact ((h.appendKey hk b).respond _ _).next
    · rw [exec_kbyte_full hk, exec_kbyte_full (h.klen ▸ hk)]
      have ho : SameView { s with KOVR := true } { t with KOVR := true } := { h with kovr := rfl }
      exact (ho.respond _ _).next
  | ksa =>
    by_cases hk : s.KLEN = 0#9
    · rw [exec_ksa_empty hk, exec_ksa_empty (h.klen ▸ hk)]
      exact (h.raise _ _).next
    · rw [exec_ksa_key hk, exec_ksa_key (h.klen ▸ hk)]
      exact SameView.next { h with
        rdy := rfl
        ci := rfl
        cj := rfl
        kc := rfl
        phase := rfl
        stream := nofun
        filled := fun _ x hx => absurd hx BitVec.not_lt_zero }
  | gen =>
    cases hr : s.RDY with
    | false =>
      rw [exec_gen_notReady hr, exec_gen_notReady (h.rdy ▸ hr)]
      exact (h.raise _ _).next
    | true =>
      obtain ⟨hv, hb⟩ := h.prga hr
      rw [exec_gen_ready hr, exec_gen_ready (h.rdy ▸ hr), hb]
      exact (hv.respond _ _).next
  | xor d =>
    cases hr : s.RDY with
    | false =>
      rw [exec_xor_notReady hr, exec_xor_notReady (h.rdy ▸ hr)]
      exact (h.raise _ _).next
    | true =>
      obtain ⟨hv, hb⟩ := h.prga hr
      rw [exec_xor_ready hr, exec_xor_ready (h.rdy ▸ hr), hb]
      exact (hv.respond _ _).next
  | stat =>
    rw [exec_stat, exec_stat, h.status]
    exact (h.respond _ _).next

theorem SameView.acceptWord (h : SameView s t) (w : Word) :
    NextSameView (acceptWord w s) (acceptWord w t) := by
  cases hd : decode w with
  | command i => rw [acceptWord_command hd, acceptWord_command hd]; exact h.exec i
  | illegal o => rw [acceptWord_illegal hd, acceptWord_illegal hd]; exact (h.raise _ _).next

theorem SameView.phaseEdge (h : SameView s t) (hs : s.Inv) (p : Pins) :
    NextSameView (phaseEdge p s) (phaseEdge p t) := by
  unfold Machine.phaseEdge
  rw [← h.phase]
  cases hp : s.PHASE with
  | idle =>
    simp only
    split
    · exact h.acceptWord _
    · exact h.next
  | fill => exact (h.fillStep hp).next
  | mix => exact (h.mixStep hs hp).next
  | resp =>
    simp only
    split
    · exact h.deliver.next
    · exact h.next

theorem SameView.pins (h : SameView s t) : s.pins = t.pins := congrArg (·.headD Pins.quiet) h.inputs

theorem SameView.step (h : SameView s t) (hs : s.Inv) : NextSameView (step s) (step t) := by
  rw [step_eq, step_eq, clockEdge, clockEdge, ← h.pins]
  split
  · rw [State.resetEdge_eq, State.resetEdge_eq, h.consume.inputs]
    exact (SameView.resetWith ..).next
  · exact h.consume.phaseEdge hs.consume _

/-! ### The ports -/

theorem SameView.outputsNow (h : SameView s t) : s.outputsNow = t.outputsNow := by
  simp only [State.outputsNow, outputs, h.pins, h.phase, h.rsp]

theorem SameView.accepted (h : SameView s t) : s.accepted = t.accepted := by
  simp only [State.accepted, h.pins, h.outputsNow]

theorem SameView.delivered (h : SameView s t) : s.delivered = t.delivered := by
  simp only [State.delivered, h.pins, h.outputsNow]

/-- What crosses the ports in any number of edges is in view. -/
theorem SameView.trace (h : SameView s t) (hs : s.Inv) (n : Nat) : trace n s = trace n t := by
  induction n generalizing s t with
  | zero => rfl
  | succ n ih =>
    obtain ⟨s', t', hs', ht', hv⟩ := h.step hs
    rw [trace_succ hs', trace_succ ht', h.accepted, h.delivered,
      ih hv (stepKeepsTheInvariants s s' hs hs')]

end View

/-- Settles O51: the ports are in view, and an edge keeps the view. -/
theorem stepKeepsUnobservedUnobserved : Obligations.StepKeepsUnobservedUnobserved :=
  fun _ _ hs _ h => ⟨h.outputsNow, h.accepted, h.delivered, h.step hs⟩

/-- Settles O52: after reset neither array is in view, and a run shows only what is. -/
theorem resetContentsAreNeverObserved : Obligations.ResetContentsAreNeverObserved :=
  fun n d d' m k m' k' ins => (SameView.resetWith d d' ins m k m' k').trace (.resetWith d ins m k) n

end Sys2Proof.Machine
end

section
/-! Registers, outputs and phases: what each command writes (10_state.md R22 to R31), the reset table (R43), the
outputs (R38), the step of a decoded command (R39) and the transitions of PHASE (R28). -/

namespace Sys2Proof.Machine

/-- Settles O39: each entry of the table is the constant the reset state holds, and no entry reads S or K. -/
theorem resetLeavesTheTable : Obligations.ResetLeavesTheTable :=
  ⟨rfl, rfl, rfl, rfl, rfl, rfl, rfl, rfl, rfl, rfl, rfl, by decide, rfl⟩

/-- Settles O41: an output is the test of PHASE, masked by rst. -/
theorem outputsFollowPhaseAndReset : Obligations.OutputsFollowPhaseAndReset := by
  intro s rst
  simp [outputs]

/-- An idle engine accepts the word the pins offer (R39, R244). -/
theorem step_accept {s : State} {p : Pins} {rest : List Pins} (hi : s.inputs = p :: rest)
    (hp : s.PHASE = .idle) (hr : p.rst = false) (hv : p.cmdValid = true) :
    step s = acceptWord p.cmdData { s with inputs := rest } := by
  simp [step_cons hi, hr, phaseEdge, hp, hv]

/-- Settles O42: the step accepts the word, and the word runs as it decodes. -/
theorem stepRunsTheDecodedCommand : Obligations.StepRunsTheDecodedCommand := by
  intro p rest s hi hp hr hv
  rw [step_accept hi hp hr hv]
  exact ⟨fun i hd => acceptWord_command hd _, fun o hd => acceptWord_illegal hd _⟩

/-- Settles O45: by what an edge can do, with the phase after each of its operations. -/
theorem phaseMovesAsTheTableSays : Obligations.PhaseMovesAsTheTableSays := by
  refine ⟨rfl, rfl, rfl, rfl, fun p rest s t hi h => ?_⟩
  rw [← State.pins_cons s p rest hi]
  obtain ⟨hr, rfl⟩ | ⟨hr, ⟨hp, hv, ha⟩ | ⟨hp, hv, rfl⟩ | ⟨hp, rfl⟩ | ⟨hp, rfl⟩ | ⟨hp, hy, rfl⟩ |
    ⟨hp, hy, rfl⟩⟩ := clockEdge_cases h
  · simp [hr]
  · have hw : t.PHASE = if decode s.pins.cmdData = .command .ksa ∧ s.KLEN ≠ 0#9 then .fill else .resp :=
      acceptWord_phase (s := s.consume) ha
    simp [hr, hp, hv, hw]
  · simp [hr, hp, hv]
  · simp [hr, hp]
  · simp [hr, hp]
  · simp [hr, hp, hy]
  · simp [hr, hp, hy]

/-- Settles O55: by the branches of the commands, each read through the fields of its updates. -/
theorem commandsWriteOnlyTheirRegisters : Obligations.CommandsWriteOnlyTheirRegisters := by
  intro i s t h
  cases i with
  | kclr => cases h; simp
  | kbyte b =>
    by_cases hk : s.KLEN < Config.kmax
    · rw [exec_kbyte_room hk] at h; cases h; simp
    · rw [exec_kbyte_full hk] at h; cases h; simp
  | ksa =>
    by_cases hk : s.KLEN = 0#9
    · rw [exec_ksa_empty hk] at h; cases h; simp
    · rw [exec_ksa_key hk] at h; cases h; simp
  | gen =>
    cases hr : s.RDY with
    | false => rw [exec_gen_notReady hr] at h; cases h; simp [hr]
    | true => rw [exec_gen_ready hr] at h; cases h; simp [prga_state, hr]
  | xor d =>
    cases hr : s.RDY with
    | false => rw [exec_xor_notReady hr] at h; cases h; simp [hr]
    | true => rw [exec_xor_ready hr] at h; cases h; simp [prga_state, hr]
  | stat => cases h; simp

end Sys2Proof.Machine
end

section
/-! Memory: what a step answers, and which entries of S and K it can change (20_memory.md R51, R54). -/

namespace Sys2Proof.Bytes

/-- A write changes no other entry. -/
theorem read_write_changed {m : Bytes} {i v x : Byte} (h : (m.write i v).read x ≠ m.read x) : x = i :=
  not_imp_comm.1 (read_write_of_ne m) h

/-- A swap changes no entry but its two. -/
theorem read_swap_changed {m : Bytes} {a b x : Byte} (h : (m.swap a b).read x ≠ m.read x) :
    x = a ∨ x = b := by
  by_contra hx
  obtain ⟨ha, hb⟩ := not_or.1 hx
  exact h (read_swap_of_ne m ha hb)

end Sys2Proof.Bytes

namespace Sys2Proof.Machine

/-- Settles O38: every word and every micro-step has a next state. -/
theorem everyStepAnswersNext : Obligations.EveryStepAnswersNext := step_next

/-! ### The two arrays after a micro-step -/

@[simp] theorem fillStep_K (s : State) : (fillStep s).K = s.K := by
  by_cases h : s.KC = 0xFF#8
  · rw [fillStep_last h]
  · rw [fillStep_next h]

@[simp] theorem fillStep_S (s : State) : (fillStep s).S = s.S.write s.KC s.KC := by
  by_cases h : s.KC = 0xFF#8
  · rw [fillStep_last h]
  · rw [fillStep_next h]

@[simp] theorem mixStep_K (s : State) : (mixStep s).K = s.K := by
  by_cases h : s.KC = 0xFF#8
  · rw [mixStep_last h]
  · rw [mixStep_next h]

@[simp] theorem mixStep_S (s : State) : (mixStep s).S = s.S.swap s.KC (mixIndex s) := by
  by_cases h : s.KC = 0xFF#8
  · rw [mixStep_last h]
  · rw [mixStep_next h]

/-- Settles O54: FILL is one write of S and MIX one swap. -/
theorem microStepsChangeOnlyTheirEntries : Obligations.MicroStepsChangeOnlyTheirEntries := by
  intro s
  refine ⟨fillStep_K s, fun x hx => ?_, mixStep_K s, fun x hc ht => ?_⟩
  · rw [fillStep_S, Bytes.read_write_of_ne _ hx]
  · rw [mixStep_S]
    exact Bytes.read_swap_of_ne _ hc ht

/-! ### The two arrays after an accepted word -/

/-- While K has room, the low byte of KLEN is KLEN (R101). -/
theorem toNat_keyWriteIndex {klen : BitVec 9} (h : klen < Config.kmax) :
    (keyWriteIndex klen).toNat = klen.toNat := by
  have hlt : klen.toNat < 256 := h
  simp only [keyWriteIndex, BitVec.extractLsb'_toNat, Nat.shiftRight_zero]
  exact Nat.mod_eq_of_lt hlt

/-- Only a KBYTE with room writes K, at KLEN (R101). -/
theorem acceptWord_K {w : Word} {s t : State} (h : acceptWord w s = .next t) :
    t.K = s.K ∨ ∃ b, decode w = .command (.kbyte b) ∧ s.KLEN < Config.kmax ∧
      t.K = s.K.write (keyWriteIndex s.KLEN) b := by
  obtain ⟨-, rfl⟩ | ⟨b, hd, hk, rfl⟩ | ⟨b, -, -, rfl⟩ | ⟨-, -, rfl⟩ | ⟨-, -, rfl⟩ | ⟨-, -, rfl⟩ |
    ⟨-, -, rfl⟩ | ⟨d, -, -, rfl⟩ | ⟨d, -, -, rfl⟩ | ⟨-, rfl⟩ | ⟨o, -, rfl⟩ := acceptWord_cases h
  case inr.inl => exact .inr ⟨b, hd, hk, rfl⟩
  all_goals exact .inl rfl

/-- Only a GEN or an XOR with RDY = 1 writes S, by the swap of its PRGA step (R140). -/
theorem acceptWord_S {w : Word} {s t : State} (h : acceptWord w s = .next t) :
    t.S = s.S ∨ (decode w = .command .gen ∨ ∃ d, decode w = .command (.xor d)) ∧ s.RDY = true ∧
      t.S = s.S.swap (s.CI + 1#8) (s.CJ + s.S.read (s.CI + 1#8)) := by
  obtain ⟨-, rfl⟩ | ⟨b, -, -, rfl⟩ | ⟨b, -, -, rfl⟩ | ⟨-, -, rfl⟩ | ⟨-, -, rfl⟩ | ⟨-, -, rfl⟩ |
    ⟨hd, hr, rfl⟩ | ⟨d, -, -, rfl⟩ | ⟨d, hd, hr, rfl⟩ | ⟨-, rfl⟩ | ⟨o, -, rfl⟩ := acceptWord_cases h
  case inr.inr.inr.inr.inr.inr.inl => exact .inr ⟨.inl hd, hr, rfl⟩
  case inr.inr.inr.inr.inr.inr.inr.inr.inl => exact .inr ⟨.inr ⟨d, hd⟩, hr, rfl⟩
  all_goals exact .inl rfl

/-- Settles O53: an array that differs was written, and a write or a swap changes only its own entries. -/
theorem commandsChangeOnlyTheirEntries : Obligations.CommandsChangeOnlyTheirEntries := by
  intro w s t h
  refine ⟨fun x hx => ?_, fun x hx => ?_⟩
  · obtain hK | ⟨b, hd, hk, hK⟩ := acceptWord_K h
    · exact absurd (by rw [hK]) hx
    · rw [hK] at hx
      exact ⟨⟨b, hd⟩, hk, by rw [Bytes.read_write_changed hx, toNat_keyWriteIndex hk]⟩
  · obtain hS | ⟨hd, hr, hS⟩ := acceptWord_S h
    · exact absurd (by rw [hS]) hx
    · rw [hS] at hx
      exact ⟨hd, hr, Bytes.read_swap_changed hx⟩

end Sys2Proof.Machine
end

section
/-! Responses come in acceptance order, one per word (20_memory.md R56). -/

namespace Sys2Proof

/-- A command without operand has the opcode it is selected by (R73). -/
theorem opc_of_operandless {o : Opc} {i : Instr} (h : operandless o = some i) : i.opc = o := by
  unfold operandless at h
  split_ifs at h with h1 h3 h4 h6
  · cases h; exact h1.symm
  · cases h; exact h3.symm
  · cases h; exact h4.symm
  · cases h; exact h6.symm

/-- A command has the opcode of the word it is decoded from (R73, R74). -/
theorem opc_of_decode {w : Word} {i : Instr} (h : decode w = .command i) : i.opc = Word.opc w := by
  have hf : (Word.fields w).opc = Word.opc w := rfl
  rw [← hf]
  unfold decode decodeFields at h
  split at h
  · next ho => split at h <;> cases h; exact ho.symm
  · split at h
    · next ho => split at h <;> cases h; exact ho.symm
    · split at h
      · next hi => split at h <;> cases h; exact opc_of_operandless hi
      · cases h

namespace Machine

/-- A response given at the accepting edge has the opcode of its word (R71). -/
theorem acceptWord_ropc {w : Word} {s t : State} (h : acceptWord w s = .next t) (hp : t.PHASE = .resp) :
    Response.ropc t.RSP = Word.opc w := by
  obtain ⟨hd, rfl⟩ | ⟨b, hd, -, rfl⟩ | ⟨b, hd, -, rfl⟩ | ⟨hd, -, rfl⟩ | ⟨-, -, rfl⟩ | ⟨hd, -, rfl⟩ |
    ⟨hd, -, rfl⟩ | ⟨d, hd, -, rfl⟩ | ⟨d, hd, -, rfl⟩ | ⟨hd, rfl⟩ | ⟨o, hd, rfl⟩ := acceptWord_cases h
  case inr.inr.inr.inr.inl => cases hp
  case inr.inr.inr.inr.inr.inr.inr.inr.inr.inr =>
    exact (Response.ropc_responseWord ..).trans (illegal_opc hd)
  all_goals exact (Response.ropc_responseWord ..).trans (opc_of_decode hd)

/-- The response of a word has the word's opcode, also where it comes from the last micro-step (R71, R122). -/
theorem transact_ropc {w : Word} {s t : State} (h : transact w s = .next t) :
    Response.ropc t.RSP = Word.opc w := by
  obtain ⟨u, hu⟩ := acceptWord_next w s
  have hph := acceptWord_phase hu
  split at hph
  · next hksa =>
    rw [transact_of_accept hu, Host.Outcome.next.injEq] at h
    subst h
    rw [(microSteps_fill_end 512 u hph (Nat.sub_le ..)).2, ← opc_of_decode hksa.1]
    decide
  · rw [transact_of_resp hu hph] at h
    cases h
    exact acceptWord_ropc hu hph

/-- The responses have the opcodes of the words, one for one and in order (R56). -/
theorem runCommands_ropc {ws : List Word} {s t : State} {rs : List Word}
    (h : runCommands ws s = .next (t, rs)) : rs.map Response.ropc = ws.map Word.opc := by
  induction ws generalizing s rs with
  | nil => cases h; rfl
  | cons w ws ih =>
    obtain ⟨u, rs', hu, hr, rfl⟩ := runCommands_cons_inv h
    rw [List.map_cons, List.map_cons, transact_ropc hu, ih hr]

/-- Every response is taken, so an idle engine is idle again at the end (R39). -/
theorem runCommands_idle {ws : List Word} {s t : State} {rs : List Word} (hp : s.PHASE = .idle)
    (h : runCommands ws s = .next (t, rs)) : t.PHASE = .idle := by
  induction ws generalizing s rs with
  | nil => cases h; exact hp
  | cons w ws ih =>
    obtain ⟨u, rs', -, hr, rfl⟩ := runCommands_cons_inv h
    exact ih rfl hr

/-- Settles O9: by the opcode of each response, and because the first response taken makes the engine idle. -/
theorem oneResponsePerWordInOrder : Obligations.OneResponsePerWordInOrder := by
  intro ws s
  obtain ⟨t, rs, h⟩ := runCommands_next ws s
  refine ⟨t, rs, h, runCommands_ropc h, fun hne => ?_⟩
  cases ws with
  | nil => exact absurd rfl hne
  | cons w ws =>
    obtain ⟨u, rs', -, hr, -⟩ := runCommands_cons_inv h
    exact runCommands_idle rfl hr

end Machine

end Sys2Proof
end

section
/-! KCLR, KSA and STAT are idempotent (20_memory.md R55; 90_conflicts.md C6). A KSA with a key ends in a state
that depends on the key buffer alone: FILL overwrites S, KJ and KX, and MIX does not read the last response. -/

namespace Sys2Proof.Machine

/-- The state at the first MIX micro-step of a KSA accepted in `s` (R120, R121), with the last response, which no
micro-step reads, cleared. -/
def State.mixStart (s : State) : State :=
  { s with
    S := Bytes.identity
    CI := 0#8
    CJ := 0#8
    RDY := false
    PHASE := .mix
    KC := 0#8
    KJ := 0#8
    KX := 0#8
    RSP := 0#16 }

@[simp] theorem State.deliver_mixStart (s : State) : s.deliver.mixStart = s.mixStart := rfl

@[simp] theorem State.mixStart_mixStart (s : State) : s.mixStart.mixStart = s.mixStart := rfl

/-- `mixStart` takes the key buffer and the model's own fields from the state, and no micro-step writes those. -/
@[simp] theorem microStep_mixStart (s : State) : (microStep s).mixStart = s.mixStart := by
  cases hp : s.PHASE with
  | idle => simp [microStep, hp]
  | fill =>
    rw [microStep_fill hp]
    by_cases h : s.KC = 0xFF#8
    · rw [fillStep_last h]; rfl
    · rw [fillStep_next h]; rfl
  | mix =>
    rw [microStep_mix hp]
    by_cases h : s.KC = 0xFF#8
    · rw [mixStep_last h]; rfl
    · rw [mixStep_next h]; rfl
  | resp => simp [microStep, hp]

@[simp] theorem microSteps_mixStart (n : Nat) (s : State) : (microSteps n s).mixStart = s.mixStart := by
  induction n generalizing s with
  | zero => rfl
  | succ n ih => rw [microSteps, ih, microStep_mixStart]

/-- FILL, from any entry on, ends with the identity in S and its counters at 0 (R121). -/
theorem microSteps_fill {s : State} {k : Nat} (hp : s.PHASE = .fill)
    (hid : ∀ x : Byte, x < s.KC → s.S.read x = x) (hk : s.KC.toNat + k = 256) :
    microSteps k s = { s with S := Bytes.identity, KC := 0#8, KJ := 0#8, KX := 0#8, PHASE := .mix } := by
  induction k generalizing s with
  | zero => have := s.KC.isLt; omega
  | succ k ih =>
    rw [microSteps, microStep_fill hp]
    by_cases hc : s.KC = 0xFF#8
    · have hk0 : k = 0 := by rw [hc, BitVec.toNat_ofNat] at hk; omega
      rw [hc] at hid
      rw [fillStep_last hc, hc, write_filled_last hid, hk0, microSteps]
    · rw [fillStep_next hc]
      refine ih hp (fun x hx => ?_) ?_
      · exact read_write_filled hid ((lt_counter_succ hc).1 hx)
      · rw [toNat_counter_succ hc]
        omega

/-- MIX does not read the last response, and its own response replaces it (R122). -/
theorem microSteps_mix_overwrites_RSP {s : State} {k : Nat} (r : Word) (hp : s.PHASE = .mix)
    (hk : 256 - s.KC.toNat ≤ k) : microSteps k { s with RSP := r } = microSteps k s := by
  induction k generalizing s with
  | zero => have := s.KC.isLt; omega
  | succ k ih =>
    rw [microSteps, microSteps, microStep_mix hp, microStep_mix (s := { s with RSP := r }) hp]
    by_cases hc : s.KC = 0xFF#8
    · rw [mixStep_last hc, mixStep_last (s := { s with RSP := r }) hc]; rfl
    · rw [mixStep_next hc, mixStep_next (s := { s with RSP := r }) hc]
      refine ih (s := { s with S := _, KJ := _, KX := _, KC := _ }) hp ?_
      simp only [toNat_counter_succ hc]
      omega

/-! ### The three commands as transactions -/

theorem acceptWord_encode_kclr (s : State) : acceptWord (encode .kclr) s = exec .kclr s :=
  acceptWord_command (by decide) s

theorem acceptWord_encode_ksa (s : State) : acceptWord (encode .ksa) s = exec .ksa s :=
  acceptWord_command (by decide) s

theorem acceptWord_encode_stat (s : State) : acceptWord (encode .stat) s = exec .stat s :=
  acceptWord_command (by decide) s

theorem transact_kclr (s : State) : transact (encode .kclr) s =
    .next ({ s with KLEN := 0#9, KOVR := false }.respond 0x1#4 0#8) :=
  transact_of_resp ((acceptWord_encode_kclr s).trans (exec_kclr s)) rfl

theorem transact_stat (s : State) : transact (encode .stat) s = .next (s.respond 0x6#4 s.status) :=
  transact_of_resp ((acceptWord_encode_stat s).trans (exec_stat s)) rfl

theorem transact_ksa_empty {s : State} (h : s.KLEN = 0#9) :
    transact (encode .ksa) s = .next (s.raise 0x3#4 .emptyKey) :=
  transact_of_resp ((acceptWord_encode_ksa s).trans (exec_ksa_empty h)) rfl

/-- A KSA with a key is the mixing of the identity (R121, R122). -/
theorem transact_ksa_key {s : State} (h : s.KLEN ≠ 0#9) :
    transact (encode .ksa) s = .next (microSteps 256 s.mixStart) := by
  have hfill := microSteps_fill (k := 256)
    (s := { s with RDY := false, CI := 0#8, CJ := 0#8, KC := 0#8, PHASE := .fill }) rfl
    (fun x hx => absurd hx BitVec.not_lt_zero) rfl
  have hmix := microSteps_mix_overwrites_RSP (s := s.mixStart) (k := 256) s.RSP rfl (Nat.sub_le ..)
  rw [transact_of_accept ((acceptWord_encode_ksa s).trans (exec_ksa_key h)), ← hmix,
    show 512 = 256 + 256 from rfl, microSteps_add, hfill]
  rfl

/-- A second KSA starts its mixing where the first one did. -/
theorem transact_ksa_again {s t : State} (h : transact (encode .ksa) s = .next t) :
    transact (encode .ksa) t.deliver = .next t := by
  by_cases hk : s.KLEN = 0#9
  · rw [transact_ksa_empty hk] at h
    cases h
    exact transact_ksa_empty hk
  · rw [transact_ksa_key hk, Host.Outcome.next.injEq] at h
    have hstart : t.deliver.mixStart = s.mixStart := by simp [← h]
    have hklen : t.deliver.KLEN = s.KLEN := (congrArg State.KLEN hstart :)
    rw [transact_ksa_key (by rwa [hklen]), hstart, h]

/-- Settles O24: a second KCLR clears what is clear, a second STAT reads the same registers, and a KSA depends on
the key buffer alone. -/
theorem kclrKsaAndStatAreIdempotent : Obligations.KclrKsaAndStatAreIdempotent := by
  rintro i s t (rfl | rfl | rfl) h
  · rw [transact_kclr] at h
    cases h
    exact transact_kclr _
  · exact transact_ksa_again h
  · rw [transact_stat] at h
    cases h
    exact transact_stat _

end Sys2Proof.Machine
end

section
/-! The decoder and the encoder are inverse (30_encoding.md R70, R73 to R75): a word and its fields are the same
thing, a command is decoded from exactly its own fields, and the fields of some command are the well-formed ones. -/

namespace Sys2Proof

/-! ### A word and its fields -/

@[simp] theorem Word.fields_word (f : Fields) : Word.fields f.word = f := by
  simp [Word.fields]

theorem eq_word_iff {w : Word} {f : Fields} : w = f.word ↔ Word.fields w = f := by
  constructor
  · rintro rfl
    exact Word.fields_word f
  · rintro rfl
    exact (Fields.word_fields w).symm

theorem Fields.word_and_word (f g : Fields) : f.word &&& g.word =
    Fields.word { opc := f.opc &&& g.opc, rsv := f.rsv &&& g.rsv, imm := f.imm &&& g.imm } :=
  BitVec.and_append.trans (congrArg (· ++ (f.imm &&& g.imm)) BitVec.and_append)

/-- Masking the low byte away keeps OPC and RSV (R70, R73). -/
theorem and_highByteMask (w : Word) :
    w &&& 0xFF00#16 = Fields.word { opc := Word.opc w, rsv := Word.rsv w, imm := 0#8 } := by
  have hmask : 0xFF00#16 = Fields.word { opc := BitVec.allOnes 4, rsv := BitVec.allOnes 4, imm := 0#8 } := by
    decide
  calc w &&& 0xFF00#16 = (Word.fields w).word &&& 0xFF00#16 := by rw [Fields.word_fields]
    _ = Fields.word { opc := Word.opc w, rsv := Word.rsv w, imm := 0#8 } := by
      rw [hmask, Fields.word_and_word, BitVec.and_allOnes, BitVec.and_allOnes, BitVec.and_zero]
      rfl

/-! ### The fields of a command -/

/-- The fields of a command's word (R70, R73). -/
def Instr.fields (i : Instr) : Fields := { opc := i.opc, rsv := 0#4, imm := i.imm }

theorem encode_eq_word (i : Instr) : encode i = i.fields.word := rfl

theorem fields_of_operandless {f : Fields} {i : Instr} (h : operandless f.opc = some i) (hr : f.rsv = 0#4)
    (hm : f.imm = 0#8) : f = i.fields := by
  obtain ⟨o, r, m⟩ := f
  subst hr hm
  unfold operandless at h
  split_ifs at h with h1 h3 h4 h6
  · cases h; cases h1; rfl
  · cases h; cases h3; rfl
  · cases h; cases h4; rfl
  · cases h; cases h6; rfl

/-- A command is decoded from its own fields and from no others (R74). -/
theorem decodeFields_eq_command_iff {f : Fields} {i : Instr} : decodeFields f = .command i ↔ f = i.fields := by
  constructor
  · intro h
    obtain ⟨o, r, m⟩ := f
    unfold decodeFields at h
    split at h
    · next ho =>
      split at h <;> cases h
      next hr => cases ho; cases hr; rfl
    · split at h
      · next ho =>
        split at h <;> cases h
        next hr => cases ho; cases hr; rfl
      · split at h
        · next hi =>
          split at h <;> cases h
          next hrm => exact fields_of_operandless hi hrm.1 hrm.2
        · cases h
  · rintro rfl
    cases i <;> rfl

theorem decode_eq_command_iff_fields {w : Word} {i : Instr} :
    decode w = .command i ↔ Word.fields w = i.fields :=
  decodeFields_eq_command_iff

/-- The decoder answers a command on its encoding and on no other word. -/
theorem decode_eq_command_iff {w : Word} {i : Instr} : decode w = .command i ↔ w = encode i := by
  rw [decode_eq_command_iff_fields, encode_eq_word, eq_word_iff]

/-! ### Legal words -/

theorem fields_wf (i : Instr) : i.fields.wf = true := by
  cases i <;> rfl

/-- Well-formed fields are those of one of the six commands (R73). -/
theorem exists_fields_of_wf {f : Fields} (h : f.wf = true) : ∃ i : Instr, f = i.fields := by
  obtain ⟨o, r, m⟩ := f
  simp only [Fields.wf, Fields.opcodeOk, Fields.reservedOk, Fields.operandOk, Bool.and_eq_true,
    Bool.or_eq_true, decide_eq_true_eq] at h
  obtain ⟨⟨⟨hlo, hhi⟩, rfl⟩, hm⟩ := h
  have ho : o = 1#4 ∨ o = 2#4 ∨ o = 3#4 ∨ o = 4#4 ∨ o = 5#4 ∨ o = 6#4 := by bv_omega
  obtain rfl | rfl | rfl | rfl | rfl | rfl := ho
  case inr.inl => exact ⟨.kbyte m, rfl⟩
  case inr.inr.inr.inr.inl => exact ⟨.xor m, rfl⟩
  all_goals obtain rfl : m = 0#8 := by simpa using hm
  · exact ⟨.kclr, rfl⟩
  · exact ⟨.ksa, rfl⟩
  · exact ⟨.gen, rfl⟩
  · exact ⟨.stat, rfl⟩

/-- A word decodes to a command exactly if its fields are well-formed (R75). -/
theorem exists_command_iff_wf {w : Word} : (∃ i, decode w = .command i) ↔ (Word.fields w).wf = true := by
  constructor
  · rintro ⟨i, h⟩
    rw [decode_eq_command_iff_fields.1 h]
    exact fields_wf i
  · intro h
    obtain ⟨i, hi⟩ := exists_fields_of_wf h
    exact ⟨i, decode_eq_command_iff_fields.2 hi⟩

/-- Which check an ill-formed field fails (R75). -/
theorem not_wf_iff {f : Fields} : ¬ f.wf = true ↔
    f.opc = 0x0#4 ∨ 0x7#4 ≤ f.opc ∨ f.rsv ≠ 0#4 ∨ (f.imm ≠ 0#8 ∧ f.opc ≠ 0x2#4 ∧ f.opc ≠ 0x5#4) := by
  have hopc : 1#4 ≤ f.opc ∧ f.opc ≤ 6#4 ↔ ¬ (f.opc = 0x0#4 ∨ 0x7#4 ≤ f.opc) := by
    constructor <;> intro h <;> bv_omega
  simp only [Fields.wf, Fields.opcodeOk, Fields.reservedOk, Fields.operandOk, Bool.and_eq_true,
    Bool.or_eq_true, decide_eq_true_eq, hopc]
  tauto

/-- A word that is no command is illegal and keeps its opcode (R74, R75). -/
theorem decode_illegal {w : Word} (h : ¬ ∃ i, decode w = .command i) : decode w = .illegal (Word.opc w) := by
  cases hd : decode w with
  | command i => exact absurd ⟨i, hd⟩ h
  | illegal o => rw [Machine.illegal_opc hd]

/-- An opcode outside the map makes a word illegal (R73). -/
theorem decode_illegal_of_opc {w : Word} (h : Word.opc w = 0x0#4 ∨ 0x7#4 ≤ Word.opc w) :
    decode w = .illegal (Word.opc w) := by
  apply decode_illegal
  rw [exists_command_iff_wf, not_wf_iff]
  exact h.imp_right .inl

/-! ### The rows of the opcode map by match and mask -/

/-- A command without operand is one word, and the mask compares every bit (R73). -/
theorem decode_iff_fullMask {w m : Word} {i : Instr} (hm : encode i = m) :
    decode w = .command i ↔ w &&& 0xFFFF#16 = m := by
  rw [decode_eq_command_iff, hm, show 0xFFFF#16 = BitVec.allOnes 16 from rfl, BitVec.and_allOnes]

/-- For a command with an operand the mask compares OPC and RSV, and IMM is the operand (R73). -/
theorem decode_iff_highMask {w m : Word} {i : Instr} {o : Opc} (ho : i.opc = o)
    (hm : Fields.word { opc := o, rsv := 0#4, imm := 0#8 } = m) :
    decode w = .command i ↔ w &&& 0xFF00#16 = m ∧ Word.imm w = i.imm := by
  rw [decode_eq_command_iff_fields, ← hm, ← ho, and_highByteMask, eq_word_iff, Word.fields_word]
  simp only [Word.fields, Instr.fields, Fields.mk.injEq, and_true, and_assoc]

/-- Settles O3: a word decodes to a command exactly if it is its encoding, which the mask compares. -/
theorem decodeFollowsTheOpcodeMap : Obligations.DecodeFollowsTheOpcodeMap := by
  intro w
  refine ⟨?kclr, fun b => ?kbyte, ?ksa, ?gen, fun d => ?xor, ?stat, decode_illegal_of_opc⟩
  case kbyte => exact decode_iff_highMask (o := 0x2#4) rfl (by decide)
  case xor => exact decode_iff_highMask (o := 0x5#4) rfl (by decide)
  all_goals exact decode_iff_fullMask (by decide)

/-- Settles O4: by the well-formedness of the fields. -/
theorem wordsOutsideTheMapAreIllegal : Obligations.WordsOutsideTheMapAreIllegal := by
  refine ⟨fun w => ?_, fun w s h => ?_, by decide⟩
  · rw [exists_command_iff_wf, not_wf_iff]
    rfl
  · have hd := decode_illegal h
    exact ⟨hd, Machine.acceptWord_illegal hd s⟩

end Sys2Proof
end

section
/-! Every word is answered (30_encoding.md R71, R77, R78), and what the pseudo-instructions expand to (R80). -/

namespace Sys2Proof.Machine

/-- The word runs to a response that carries its opcode, RZ = 0 and the given ERR and DATA (R71). -/
def Answers (w : Word) (s : State) (result : Bool × Byte) : Prop :=
  ∃ t, transact w s = .next t ∧ t.PHASE = .resp ∧ Response.ropc t.RSP = Word.opc w ∧
    Response.rz t.RSP = 0b000#3 ∧ (Response.err t.RSP, Response.data t.RSP) = result

/-- The opcode of a response is known from its word, so only ERR and DATA are read off (R71). -/
theorem Answers.of_transact {w : Word} {s t : State} {o : Opc} {e : Bool} {d : Byte}
    (h : transact w s = .next t) (hp : t.PHASE = .resp) (hr : t.RSP = responseWord o e d) :
    Answers w s (e, d) := by
  refine ⟨t, h, hp, transact_ropc h, ?_, ?_⟩
  · rw [hr, Response.rz_responseWord]
  · rw [hr, Response.err_responseWord, Response.data_responseWord]

theorem Answers.of_respond {w : Word} {s t : State} {o : Opc} {d : Byte}
    (h : acceptWord w s = .next (t.respond o d)) : Answers w s (false, d) :=
  .of_transact (transact_of_resp h rfl) rfl rfl

theorem Answers.of_raise {w : Word} {s t : State} {o : Opc} {e : ErrorCode}
    (h : acceptWord w s = .next (t.raise o e)) : Answers w s (true, e.code) :=
  .of_transact (transact_of_resp h rfl) rfl rfl

/-! ### The answer to each command (R77, R78) -/

section
variable {w : Word} (s : State)

theorem answers_illegal {o : Opc} (h : decode w = .illegal o) : Answers w s (true, 0x01#8) :=
  .of_raise (acceptWord_illegal h s)

theorem answers_kclr (h : decode w = .command .kclr) : Answers w s (false, 0x00#8) :=
  .of_respond ((acceptWord_command h s).trans (exec_kclr s))

theorem answers_kbyte {b : Byte} (h : decode w = .command (.kbyte b)) : Answers w s (false, 0x00#8) := by
  by_cases hk : s.KLEN < Config.kmax
  · exact .of_respond ((acceptWord_command h s).trans (exec_kbyte_room hk b))
  · exact .of_respond ((acceptWord_command h s).trans (exec_kbyte_full hk b))

/-- The answer of a KSA with a key comes from its last MIX micro-step (R122). -/
theorem answers_ksa (h : decode w = .command .ksa) :
    Answers w s (if s.KLEN = 0#9 then (true, 0x03#8) else (false, 0x00#8)) := by
  split
  · next hk => exact .of_raise ((acceptWord_command h s).trans (exec_ksa_empty hk))
  · next hk =>
    have hend := microSteps_fill_end 512
      { s with RDY := false, CI := 0#8, CJ := 0#8, KC := 0#8, PHASE := .fill } rfl (Nat.sub_le ..)
    exact .of_transact (o := 0x3#4) (transact_of_accept ((acceptWord_command h s).trans (exec_ksa_key hk)))
      hend.1 (hend.2.trans (by decide))

theorem answers_gen (h : decode w = .command .gen) :
    Answers w s (if s.RDY = false then (true, 0x02#8) else (false, (prga s).2)) := by
  split
  · next hr => exact .of_raise ((acceptWord_command h s).trans (exec_gen_notReady hr))
  · next hr =>
    exact .of_respond ((acceptWord_command h s).trans (exec_gen_ready (Bool.eq_true_of_not_eq_false hr)))

theorem answers_xor {d : Byte} (h : decode w = .command (.xor d)) :
    Answers w s (if s.RDY = false then (true, 0x02#8) else (false, d ^^^ (prga s).2)) := by
  split
  · next hr => exact .of_raise ((acceptWord_command h s).trans (exec_xor_notReady hr d))
  · next hr =>
    exact .of_respond ((acceptWord_command h s).trans (exec_xor_ready (Bool.eq_true_of_not_eq_false hr) d))

theorem answers_stat (h : decode w = .command .stat) : Answers w s (false, s.status) :=
  .of_respond ((acceptWord_command h s).trans (exec_stat s))

end

/-- Settles O8, by the answer to each command and to an illegal word. -/
theorem everyWordIsAnswered : Obligations.EveryWordIsAnswered := by
  intro w s
  cases hd : decode w with
  | illegal o => exact answers_illegal s hd
  | command i =>
    cases i with
    | kclr => exact answers_kclr s hd
    | kbyte b => exact answers_kbyte s hd
    | ksa => exact answers_ksa s hd
    | gen => exact answers_gen s hd
    | xor d => exact answers_xor s hd
    | stat => exact answers_stat s hd

/-! ### Pseudo-instructions -/

/-- INIT with no bytes clears the key buffer, so its KSA is refused with EMPTY_KEY (R80, R203). -/
theorem runCommands_expandInit_nil (s : State) :
    ∃ t, runCommands (words (expandInit [])) s = .next (t, [0x1000#16, 0x3103#16]) :=
  ⟨_, runCommands_cons (transact_kclr s) (runCommands_cons (transact_ksa_empty rfl) rfl)⟩

/-- Settles O7: the expansions as defined, and the answer of the empty INIT. -/
theorem pseudoInstructionsExpand : Obligations.PseudoInstructionsExpand :=
  ⟨fun _ => rfl, fun _ => rfl, fun _ => rfl, fun _ => rfl, rfl, rfl, rfl, rfl, runCommands_expandInit_nil⟩

end Sys2Proof.Machine
end

section
/-! The key buffer (40_key_load.md): what KCLR and KBYTE do, that they touch nothing of the stream, and what K, KLEN
and KOVR hold after a list of words. -/

namespace Sys2Proof

/-- KCLR is the only command with its opcode (R73). -/
theorem eq_kclr_of_opc {i : Instr} (h : i.opc = 0x1#4) : i = .kclr := by
  cases i with
  | kclr => rfl
  | kbyte | ksa | gen | xor | stat => cases h

theorem encode_kclr : encode .kclr = 0x1000#16 := by decide

theorem encode_kbyte (b : Byte) : encode (.kbyte b) = 0x2000#16 ||| b.zeroExtend 16 := by
  have hb : b.toNat < 2 ^ 16 := b.isLt.trans (by decide)
  apply BitVec.eq_of_toNat_eq
  calc (encode (.kbyte b)).toNat = 0x2000 ||| b.toNat := BitVec.toNat_append (0x2#4 ++ 0#4) b
    _ = (0x2000#16 ||| b.zeroExtend 16).toNat := by
      rw [BitVec.toNat_or, BitVec.toNat_setWidth, Nat.mod_eq_of_lt hb, BitVec.toNat_ofNat]

/-- A word with KCLR's opcode that is not its encoding is illegal (R75, R100). -/
theorem decode_illegal_of_kclr_opc {w : Word} (ho : Word.opc w = 0x1#4) (hw : w ≠ 0x1000#16) :
    decode w = .illegal 0x1#4 := by
  rw [← ho]
  refine decode_illegal fun ⟨i, hi⟩ => hw ?_
  rw [eq_kclr_of_opc ((opc_of_decode hi).trans ho)] at hi
  exact (decode_eq_command_iff.1 hi).trans encode_kclr

/-- A word with a nonzero RSV is illegal (R75). -/
theorem decode_illegal_of_rsv {w : Word} (h : Word.rsv w ≠ 0#4) : decode w = .illegal (Word.opc w) := by
  apply decode_illegal
  rw [exists_command_iff_wf, not_wf_iff]
  exact .inr (.inr (.inl h))

/-- The words 0x2100 to 0x2FFF have KBYTE's opcode and a nonzero RSV (R101). -/
theorem opc_rsv_of_range {w : Word} (hlo : 0x2100#16 ≤ w) (hhi : w ≤ 0x2FFF#16) :
    Word.opc w = 0x2#4 ∧ Word.rsv w ≠ 0#4 := by
  have hlo' : 0x2100 ≤ w.toNat := hlo
  have hhi' : w.toNat ≤ 0x2FFF := hhi
  simp only [Word.opc, Word.rsv, ne_eq, ← BitVec.toNat_inj, BitVec.extractLsb'_toNat, Nat.shiftRight_eq_div_pow,
    BitVec.toNat_ofNat]
  omega

namespace Machine

/-! ### KCLR and KBYTE alone -/

/-- The answer of a STAT while the key buffer is empty: KEMPTY, and RDY as it is (R33, R100). -/
theorem stat_response_keyEmpty {s : State} (hk : s.KLEN = 0#9) (ho : s.KOVR = false) :
    responseWord 0x6#4 false s.status = if s.RDY = true then 0x6003#16 else 0x6002#16 := by
  rw [State.status, State.kfull, State.kempty, hk, ho]
  cases s.RDY <;> decide

/-- Settles O10: the effect is KCLR's equation, and the STAT reads the cleared registers. -/
theorem kclrEmptiesTheKeyBuffer : Obligations.KclrEmptiesTheKeyBuffer := by
  refine ⟨fun w => ?_, fun w => decode_illegal_of_kclr_opc, fun s => ⟨rfl, _, exec_kclr s, rfl, rfl, rfl, ?_⟩⟩
  · rw [decode_eq_command_iff, encode_kclr]
  · rw [exec_stat, State.respond, stat_response_keyEmpty rfl rfl]
    rfl

/-- Settles O11: the encodings by the decoder's inverse, the effect by KBYTE's two branches. -/
theorem kbyteAppendsOrDiscards : Obligations.KbyteAppendsOrDiscards := by
  refine ⟨fun w b => ?_, fun w hlo hhi => ?_, fun b s => ⟨(exec_kbyte_room · b), (exec_kbyte_full · b)⟩⟩
  · rw [decode_eq_command_iff, encode_kbyte]
  · obtain ⟨ho, hr⟩ := opc_rsv_of_range hlo hhi
    rw [decode_illegal_of_rsv hr, ho]

/-- Settles O13: each branch is chosen by KLEN alone and writes K, KLEN, KOVR, RSP and PHASE at most. -/
theorem keyLoadingIsApartFromTheStream : Obligations.KeyLoadingIsApartFromTheStream := by
  rintro i s t (rfl | ⟨b, rfl⟩) h
  · cases h
    exact ⟨rfl, rfl, rfl, rfl, fun _ _ _ _ => rfl⟩
  · by_cases hk : s.KLEN < Config.kmax
    · rw [exec_kbyte_room hk] at h
      cases h
      exact ⟨rfl, rfl, rfl, rfl, fun m ci cj rdy =>
        exec_kbyte_room (s := { s with S := m, CI := ci, CJ := cj, RDY := rdy }) hk b⟩
    · rw [exec_kbyte_full hk] at h
      cases h
      exact ⟨rfl, rfl, rfl, rfl, fun m ci cj rdy =>
        exec_kbyte_full (s := { s with S := m, CI := ci, CJ := cj, RDY := rdy }) hk b⟩

/-! ### The key sent, as the key buffer holds it -/

/-- The key buffer holds the first 256 bytes of `key`, and KOVR says whether there are more (R102). -/
structure State.HoldsKey (s : State) (key : List Byte) : Prop where
  klen : s.KLEN.toNat = min key.length 256
  entry : ∀ x : Byte, x.toNat < min key.length 256 → key[x.toNat]? = some (s.K.read x)
  kovr : s.KOVR = true ↔ 256 < key.length

/-- The two states have the same key buffer. -/
def SameKeyBuffer (s t : State) : Prop := t.K = s.K ∧ t.KLEN = s.KLEN ∧ t.KOVR = s.KOVR

section
variable {s t : State} {key : List Byte} {w : Word}

theorem State.HoldsKey.of_same (h : s.HoldsKey key) (hs : SameKeyBuffer s t) : t.HoldsKey key := by
  obtain ⟨hK, hL, hO⟩ := hs
  exact ⟨by rw [hL, h.klen], by rw [hK]; exact h.entry, by rw [hO, h.kovr]⟩

theorem State.HoldsKey.nil (hk : s.KLEN = 0#9) (ho : s.KOVR = false) : s.HoldsKey [] where
  klen := by rw [hk]; rfl
  entry x hx := absurd hx (Nat.not_lt_zero _)
  kovr := by simp [ho]

/-- While K has room, KBYTE appends (R101). -/
theorem State.HoldsKey.append_room (h : s.HoldsKey key) (hk : s.KLEN < Config.kmax) (b : Byte) :
    ({ s.writeK (keyWriteIndex s.KLEN) b with KLEN := s.KLEN + 1#9 }.respond 0x2#4 0#8).HoldsKey
      (key ++ [b]) := by
  have hi := toNat_keyWriteIndex hk
  have hlt : s.KLEN.toNat < 256 := hk
  have hlen : s.KLEN.toNat = key.length := by have := h.klen; omega
  refine ⟨?_, fun x hx => ?_, ?_⟩
  · simp only [State.respond_KLEN, BitVec.toNat_add, BitVec.toNat_ofNat, List.length_append, List.length_singleton]
    omega
  · simp only [List.length_append, List.length_singleton] at hx
    simp only [State.respond_K, State.writeK_K]
    by_cases hx' : x = keyWriteIndex s.KLEN
    · rw [hx', Bytes.read_write_self, hi, hlen, List.getElem?_concat_length]
    · have hne : x.toNat ≠ key.length := fun e => hx' (BitVec.eq_of_toNat_eq (by omega))
      rw [Bytes.read_write_of_ne _ hx', List.getElem?_append_left (by omega)]
      exact h.entry x (by omega)
  · simp only [State.respond_KOVR, State.writeK_KOVR, List.length_append, List.length_singleton, h.kovr]
    omega

/-- Once K is full, KBYTE only sets KOVR (R101). -/
theorem State.HoldsKey.append_full (h : s.HoldsKey key) (hk : ¬ s.KLEN < Config.kmax) (b : Byte) :
    ({ s with KOVR := true }.respond 0x2#4 0#8).HoldsKey (key ++ [b]) := by
  have hge : ¬ s.KLEN.toNat < 256 := hk
  have hlen : 256 ≤ key.length := by have := h.klen; omega
  refine ⟨?_, fun x hx => ?_, ?_⟩
  · rw [State.respond_KLEN, h.klen, List.length_append]
    omega
  · have := x.isLt
    rw [List.getElem?_append_left (by omega)]
    exact h.entry x (by omega)
  · simp only [State.respond_KOVR, List.length_append, List.length_singleton, true_iff]
    omega

/-- No accepted word but KCLR and KBYTE writes the key buffer (R22 to R24). -/
theorem acceptWord_sameKeyBuffer (hc : decode w ≠ .command .kclr) (hb : ∀ b, decode w ≠ .command (.kbyte b))
    (h : acceptWord w s = .next t) : SameKeyBuffer s t := by
  cases hd : decode w with
  | illegal o =>
    rw [acceptWord_illegal hd] at h
    cases h
    exact ⟨rfl, rfl, rfl⟩
  | command i =>
    rw [acceptWord_command hd] at h
    have hc' : i ≠ .kclr := fun e => hc (e ▸ hd)
    have hb' : ∀ b, i ≠ .kbyte b := fun b e => hb b (e ▸ hd)
    obtain ⟨-, -, -, -, -, hK, hKlen, -⟩ := commandsWriteOnlyTheirRegisters i s t h
    exact ⟨hK hb', hKlen hc' hb'⟩

/-- No micro-step writes the key buffer (R121, R122). -/
theorem microSteps_sameKeyBuffer (n : Nat) (s : State) : SameKeyBuffer s (microSteps n s) := by
  have h := microSteps_mixStart n s
  exact ⟨(congrArg State.K h :), (congrArg State.KLEN h :), (congrArg State.KOVR h :)⟩

theorem keyByte?_kbyte {b : Byte} (h : decode w = .command (.kbyte b)) : keyByte? w = some b := by
  simp [keyByte?, h]

theorem keyByte?_other (h : ∀ b, decode w ≠ .command (.kbyte b)) : keyByte? w = none := by
  unfold keyByte?
  split
  · next b hd => exact absurd hd (h b)
  · rfl

/-- An accepted word other than KCLR appends the byte it sends, if any (R102). -/
theorem State.HoldsKey.acceptWord (h : s.HoldsKey key) (hw : decode w ≠ .command .kclr)
    (ht : acceptWord w s = .next t) : t.HoldsKey (key ++ (keyByte? w).toList) := by
  by_cases hb : ∃ b, decode w = .command (.kbyte b)
  · obtain ⟨b, hd⟩ := hb
    rw [keyByte?_kbyte hd, Option.toList_some]
    rw [acceptWord_command hd] at ht
    by_cases hk : s.KLEN < Config.kmax
    · rw [exec_kbyte_room hk] at ht
      cases ht
      exact h.append_room hk b
    · rw [exec_kbyte_full hk] at ht
      cases ht
      exact h.append_full hk b
  · rw [not_exists] at hb
    rw [keyByte?_other hb, Option.toList_none, List.append_nil]
    exact h.of_same (acceptWord_sameKeyBuffer hw hb ht)

/-- So does its transaction, whose micro-steps leave the key buffer alone. -/
theorem State.HoldsKey.transact (h : s.HoldsKey key) (hw : decode w ≠ .command .kclr)
    (ht : transact w s = .next t) : t.HoldsKey (key ++ (keyByte? w).toList) := by
  obtain ⟨u, hu⟩ := acceptWord_next w s
  rw [transact_of_accept hu, Host.Outcome.next.injEq] at ht
  rw [← ht]
  exact (h.acceptWord hw hu).of_same (microSteps_sameKeyBuffer 512 u)

theorem keyBytes_cons (w : Word) (ws : List Word) : keyBytes (w :: ws) = (keyByte? w).toList ++ keyBytes ws := by
  cases h : keyByte? w with
  | none => simp [keyBytes, h]
  | some b => simp [keyBytes, h]

/-- A list of words without KCLR appends the bytes of its KBYTEs (R102). -/
theorem State.HoldsKey.runCommands {ws : List Word} {rs : List Word} (h : s.HoldsKey key)
    (hws : ∀ w ∈ ws, decode w ≠ .command .kclr) (hr : runCommands ws s = .next (t, rs)) :
    t.HoldsKey (key ++ keyBytes ws) := by
  induction ws generalizing s key rs with
  | nil => cases hr; simpa [keyBytes] using h
  | cons w ws ih =>
    obtain ⟨hw, hws⟩ := List.forall_mem_cons.1 hws
    obtain ⟨u, rs', hu, hr, -⟩ := runCommands_cons_inv hr
    rw [keyBytes_cons, ← List.append_assoc]
    have hdel : SameKeyBuffer u u.deliver := ⟨rfl, rfl, rfl⟩
    exact ih ((h.transact hw hu).of_same hdel) hws hr

end

/-- Settles O12: the empty key buffer holds the empty key, and every word keeps holding what was sent. -/
theorem keyBufferHoldsTheKeySent : Obligations.KeyBufferHoldsTheKeySent := by
  intro ws s hws hk ho
  obtain ⟨t, rs, hr⟩ := runCommands_next ws s
  have h : t.HoldsKey (keyBytes ws) := (State.HoldsKey.nil hk ho).runCommands hws hr
  exact ⟨t, rs, hr, h.klen, h.entry, h.kovr⟩

end Machine

end Sys2Proof
end

section
/-! The key schedule (41_ksa.md): the micro-steps of FILL and MIX, and a KSA run to its response as the document's
schedule of the key in K. -/

namespace Sys2Proof.Machine

/-- Settles O15: the branch of KSA's rule for a key that is not empty. -/
theorem ksaStartsTheSchedule : Obligations.KsaStartsTheSchedule := fun _ => exec_ksa_key

/-! ### One edge in FILL and in MIX -/

section
variable {s : State} {p : Pins} {rest : List Pins}

/-- Without a reset an edge in FILL is a FILL micro-step, whatever the other pins hold (R39). -/
theorem step_fill (hi : s.inputs = p :: rest) (hr : p.rst = false) (hp : s.PHASE = .fill) :
    step s = .next (fillStep { s with inputs := rest }) := by
  simp [step_cons hi, hr, phaseEdge, hp]

/-- Without a reset an edge in MIX is a MIX micro-step, whatever the other pins hold (R39). -/
theorem step_mix (hi : s.inputs = p :: rest) (hr : p.rst = false) (hp : s.PHASE = .mix) :
    step s = .next (mixStep { s with inputs := rest }) := by
  simp [step_cons hi, hr, phaseEdge, hp]

end

/-- Settles O17: the two branches of the micro-step, and FILL from its first entry on. -/
theorem fillMakesTheIdentity : Obligations.FillMakesTheIdentity := by
  refine ⟨fun p rest s hr hp hi => ?_, fun s hp hc => ⟨Bytes.identity, Bytes.read_identity, ?_⟩⟩
  · rw [step_fill hi hr hp]
    by_cases hc : s.KC = 0xFF#8
    · rw [if_pos hc, fillStep_last (s := { s with inputs := rest }) hc]
    · rw [if_neg hc, fillStep_next (s := { s with inputs := rest }) hc]
  · exact microSteps_fill hp (fun x hx => absurd (hc ▸ hx) BitVec.not_lt_zero) (by rw [hc]; rfl)

/-- Settles O18: the swap read at any index, and the two branches of the micro-step. -/
theorem mixSwapsTwoEntries : Obligations.MixSwapsTwoEntries := by
  intro p rest s hr hp hi
  refine ⟨s.S.swap s.KC (mixIndex s), mixIndex s, rfl, Bytes.read_swap_left .., Bytes.read_swap_right ..,
    fun x => Bytes.read_swap_of_ne _, fun ht => by rw [ht, Bytes.swap_self], ?_⟩
  rw [step_mix hi hr hp, ← nextKeyIndex_eq s.KX s.KLEN]
  by_cases hc : s.KC = 0xFF#8
  · rw [if_pos hc, mixStep_last (s := { s with inputs := rest }) hc]
    rfl
  · rw [if_neg hc, mixStep_next (s := { s with inputs := rest }) hc]
    rfl

/-! ### What every MIX micro-step does, the last one too -/

/-- One iteration of the document's loop, as a MIX micro-step performs it (R122). -/
def State.mixRound (s : State) : State :=
  { s with
    S := s.S.swap s.KC (mixIndex s)
    KJ := mixIndex s
    KX := nextKeyIndex s.KX s.KLEN
    KC := s.KC + 1#8 }

/-- What the last MIX micro-step adds: RDY and the KSA's answer (R122). -/
def State.scheduled (s : State) : State := { s with RDY := true, RSP := 0x3000#16, PHASE := .resp }

theorem mixStep_eq_mixRound {s : State} (h : s.KC ≠ 0xFF#8) : mixStep s = s.mixRound := mixStep_next h

theorem mixStep_eq_scheduled {s : State} (h : s.KC = 0xFF#8) : mixStep s = s.mixRound.scheduled := by
  rw [mixStep_last h, State.mixRound, h]
  rfl

/-! ### The key in K -/

section
variable {s : State}

theorem length_keyList (hk : s.KLEN ≤ 256#9) : s.keyList.length = s.KLEN.toNat := by
  have hle : s.KLEN.toNat ≤ 256 := hk
  simpa [State.keyList] using hle

/-- The key's bytes are the entries of K below KLEN (R102). -/
theorem getElem?_keyList (hk : s.KLEN ≤ 256#9) {i : Nat} (hi : i < s.KLEN.toNat) :
    s.keyList[i]? = some (s.K.read (BitVec.ofNat 8 i)) := by
  have hle : s.KLEN.toNat ≤ 256 := hk
  have hlt : i < 256 := by omega
  simp [State.keyList, Bytes.read, hi, hlt, Nat.mod_eq_of_lt hlt]

/-- The byte of K that a key index names, as the document's `key[i mod key_length]` (R123). -/
theorem getElem?_keyList_mod (h0 : s.KLEN ≠ 0#9) (hk : s.KLEN ≤ 256#9) (n : Nat) :
    s.keyList[n % s.keyList.length]? = some (s.K.read (BitVec.ofNat 8 (n % s.KLEN.toNat))) := by
  have hpos : 0 < s.KLEN.toNat := by bv_omega
  rw [length_keyList hk]
  exact getElem?_keyList hk (Nat.mod_lt n hpos)

/-! ### MIX is the document's loop -/

/-- S and j after the document's first `n` iterations on the key in K, from S and KJ as they are. -/
def State.rounds (s : State) (n : Nat) : Bytes × Byte :=
  (List.range n).foldl (Reference.scheduleRound s.keyList) (s.S, s.KJ)

theorem State.rounds_succ (s : State) (n : Nat) :
    s.rounds (n + 1) = Reference.scheduleRound s.keyList (s.rounds n) n := by
  simp [State.rounds, List.range_succ]

/-- The engine `n` micro-steps into MIX, but for the answer that the last one gives. -/
def State.mixed (s : State) (n : Nat) : State :=
  { s with
    S := (s.rounds n).1
    KJ := (s.rounds n).2
    KX := BitVec.ofNat 8 (n % s.KLEN.toNat)
    KC := BitVec.ofNat 8 n }

@[simp] theorem State.mixed_PHASE (s : State) (n : Nat) : (s.mixed n).PHASE = s.PHASE := rfl

@[simp] theorem State.mixed_KC (s : State) (n : Nat) : (s.mixed n).KC = BitVec.ofNat 8 n := rfl

theorem State.mixed_zero (hc : s.KC = 0#8) (hx : s.KX = 0#8) : s.mixed 0 = s := by
  have hx0 : BitVec.ofNat 8 (0 % s.KLEN.toNat) = s.KX := by rw [hx, Nat.zero_mod]
  have hc0 : BitVec.ofNat 8 0 = s.KC := hc.symm
  rw [State.mixed, hx0, hc0]
  rfl

/-- The index of a MIX micro-step is the document's next j (R122). -/
theorem mixIndex_mixed (h0 : s.KLEN ≠ 0#9) (hk : s.KLEN ≤ 256#9) (n : Nat) :
    mixIndex (s.mixed n) = (s.rounds (n + 1)).2 := by
  rw [State.rounds_succ, Reference.scheduleRound, List.getD_eq_getElem?_getD, getElem?_keyList_mod h0 hk]
  rfl

/-- A MIX micro-step's swap is the document's (R122). -/
theorem swap_mixed (h0 : s.KLEN ≠ 0#9) (hk : s.KLEN ≤ 256#9) (n : Nat) :
    (s.mixed n).S.swap (s.mixed n).KC (mixIndex (s.mixed n)) = (s.rounds (n + 1)).1 := by
  rw [mixIndex_mixed h0 hk, State.rounds_succ]
  rfl

/-- The key index is the counter modulo KLEN (R123). -/
theorem toNat_KX_mixed (h0 : s.KLEN ≠ 0#9) (hk : s.KLEN ≤ 256#9) (n : Nat) :
    (s.mixed n).KX.toNat = n % s.KLEN.toNat := by
  have hpos : 0 < s.KLEN.toNat := by bv_omega
  have hle : s.KLEN.toNat ≤ 256 := hk
  have hlt : n % s.KLEN.toNat < 256 := (Nat.mod_lt n hpos).trans_le hle
  exact (BitVec.toNat_ofNat ..).trans (Nat.mod_eq_of_lt hlt)

theorem nextKeyIndex_mixed (h0 : s.KLEN ≠ 0#9) (hk : s.KLEN ≤ 256#9) (n : Nat) :
    nextKeyIndex (s.mixed n).KX s.KLEN = (s.mixed (n + 1)).KX :=
  BitVec.eq_of_toNat_eq <|
    (nextKeyIndex_mod h0 hk (toNat_KX_mixed h0 hk n)).trans (toNat_KX_mixed h0 hk (n + 1)).symm

/-- A MIX micro-step performs one iteration of the document's loop (R122). -/
theorem mixRound_mixed (h0 : s.KLEN ≠ 0#9) (hk : s.KLEN ≤ 256#9) (n : Nat) :
    (s.mixed n).mixRound = s.mixed (n + 1) := by
  have hcount : (s.mixed n).KC + 1#8 = (s.mixed (n + 1)).KC := (BitVec.ofNat_add n 1).symm
  have hkey : nextKeyIndex (s.mixed n).KX (s.mixed n).KLEN = (s.mixed (n + 1)).KX := nextKeyIndex_mixed h0 hk n
  rw [State.mixRound, swap_mixed h0 hk, mixIndex_mixed h0 hk, hkey, hcount]
  rfl

/-- MIX runs the document's loop: before the last micro-step (R122). -/
theorem microSteps_mix (hp : s.PHASE = .mix) (hc : s.KC = 0#8) (hx : s.KX = 0#8) (h0 : s.KLEN ≠ 0#9)
    (hk : s.KLEN ≤ 256#9) {n : Nat} (hn : n < 256) : microSteps n s = s.mixed n := by
  induction n with
  | zero => exact (State.mixed_zero hc hx).symm
  | succ n ih =>
    have hmix : (s.mixed n).PHASE = .mix := hp
    have hlast : (s.mixed n).KC ≠ 0xFF#8 := by
      simp only [State.mixed_KC, ne_eq, ← BitVec.toNat_inj, BitVec.toNat_ofNat]
      omega
    calc microSteps (n + 1) s = microStep (s.mixed n) := by rw [microSteps_succ, ih (by omega)]
      _ = (s.mixed n).mixRound := by rw [microStep_mix hmix, mixStep_eq_mixRound hlast]
      _ = s.mixed (n + 1) := mixRound_mixed h0 hk n

/-- MIX runs the document's loop: after the last micro-step (R122). -/
theorem microSteps_mix_all (hp : s.PHASE = .mix) (hc : s.KC = 0#8) (hx : s.KX = 0#8) (h0 : s.KLEN ≠ 0#9)
    (hk : s.KLEN ≤ 256#9) : microSteps 256 s = (s.mixed 256).scheduled := by
  have hmix : (s.mixed 255).PHASE = .mix := (s.mixed_PHASE 255).trans hp
  have hlast : (s.mixed 255).KC = 0xFF#8 := s.mixed_KC 255
  calc microSteps 256 s = microStep (s.mixed 255) := by
        rw [microSteps_succ 255, microSteps_mix hp hc hx h0 hk (by decide)]
    _ = (s.mixed 255).mixRound.scheduled := by rw [microStep_mix hmix, mixStep_eq_scheduled hlast]
    _ = (s.mixed 256).scheduled := by rw [mixRound_mixed h0 hk]

end

/-- Settles O19: by the state after each micro-step of MIX. -/
theorem keyIndexIsCounterModKeyLength : Obligations.KeyIndexIsCounterModKeyLength := by
  intro s hp hc hx h1 hk
  have h0 : s.KLEN ≠ 0#9 := by bv_omega
  refine ⟨fun n hn => ?_, ?_⟩
  · rw [microSteps_mix hp hc hx h0 hk hn]
    exact ⟨hp, (BitVec.toNat_ofNat ..).trans (Nat.mod_eq_of_lt hn), toNat_KX_mixed h0 hk n,
      (getElem?_keyList_mod h0 hk n).symm⟩
  · rw [microSteps_mix_all hp hc hx h0 hk]
    exact toNat_KX_mixed h0 hk 256

/-- FILL leaves what the document's loop starts from: the identity and j = 0 (R121). -/
theorem rounds_mixStart (s : State) (n : Nat) : s.mixStart.rounds n = Reference.scheduleUpTo s.keyList n := rfl

/-- Settles O20: the KSA is the mixing of the identity from j = 0, and MIX is the document's loop. -/
theorem ksaRunsTheDocumentsSchedule : Obligations.KsaRunsTheDocumentsSchedule := by
  intro s h0 hk
  rw [transact_ksa_key h0, microSteps_mix_all (s := s.mixStart) rfl rfl rfl h0 hk, State.mixed,
    rounds_mixStart]
  rfl

end Sys2Proof.Machine
end

section
/-! INIT (30_encoding.md R80; 41_ksa.md R124 to R126): the key loaded and scheduled is the document's Initialize,
which reads only the first 256 bytes of a key and reads a shorter key cyclically. -/

namespace Sys2Proof.Reference

/-- The schedule reads the key only as `key[i mod key_length]`, for i below 256. -/
theorem schedule_congr {key key' : List Byte} (h : ∀ i < 256,
    key.getD (i % key.length) 0#8 = key'.getD (i % key'.length) 0#8) : schedule key = schedule key' := by
  rw [schedule, schedule, scheduleUpTo, scheduleUpTo]
  refine List.foldl_ext _ _ _ fun p i hi => ?_
  rw [scheduleRound, scheduleRound, h i (List.mem_range.1 hi)]

/-- A key acts as its first 256 bytes (R125). -/
theorem schedule_take (key : List Byte) : schedule (key.take 256) = schedule key := by
  by_cases hlen : key.length ≤ 256
  · rw [List.take_of_length_le hlen]
  · refine schedule_congr fun i hi => ?_
    rw [List.length_take, Nat.min_eq_left (by omega), Nat.mod_eq_of_lt hi, Nat.mod_eq_of_lt (by omega),
      List.getD_eq_getElem?_getD, List.getD_eq_getElem?_getD, List.getElem?_take_of_lt hi]

/-- The key written out cyclically to 256 bytes (R126). -/
theorem schedule_cycle (key : List Byte) :
    schedule ((List.range 256).map fun n => key.getD (n % key.length) 0#8) = schedule key := by
  refine schedule_congr fun i hi => ?_
  simp [Nat.mod_eq_of_lt hi, hi]

/-- A key of one byte value acts as that one byte (R126). -/
theorem schedule_replicate {n : Nat} (hn : 1 ≤ n) (v : Byte) :
    schedule (List.replicate n v) = schedule [v] := by
  refine schedule_congr fun i _ => ?_
  have hlt : i % n < n := Nat.mod_lt i hn
  simp [hlt, Nat.mod_one]

end Sys2Proof.Reference

namespace Sys2Proof.Machine

/-! ### Loading a key -/

theorem decode_encode_kbyte (b : Byte) : decode (encode (.kbyte b)) = .command (.kbyte b) :=
  decode_eq_command_iff.2 rfl

theorem transact_kbyte {b : Byte} {s t : State} (h : exec (.kbyte b) s = .next t) (hp : t.PHASE = .resp) :
    transact (encode (.kbyte b)) s = .next t :=
  transact_of_resp ((acceptWord_command (decode_encode_kbyte b) s).trans h) hp

/-- Every KBYTE is answered 0x2000, whether K has room or not (R101). -/
theorem transact_kbyte_answer (b : Byte) (s : State) :
    ∃ t, transact (encode (.kbyte b)) s = .next t ∧ t.RSP = 0x2000#16 := by
  by_cases hk : s.KLEN < Config.kmax
  · exact ⟨_, transact_kbyte (exec_kbyte_room hk b) rfl, rfl⟩
  · exact ⟨_, transact_kbyte (exec_kbyte_full hk b) rfl, rfl⟩

theorem runCommands_kbytes (key : List Byte) (s : State) :
    ∃ t, runCommands (words (key.map .kbyte)) s = .next (t, List.replicate key.length 0x2000#16) := by
  induction key generalizing s with
  | nil => exact ⟨s, rfl⟩
  | cons b key ih =>
    obtain ⟨u, hu, hrsp⟩ := transact_kbyte_answer b s
    obtain ⟨t, ht⟩ := ih u.deliver
    have hrun := runCommands_cons hu ht
    rw [hrsp] at hrun
    exact ⟨t, hrun⟩

theorem keyBytes_kbytes (key : List Byte) : keyBytes (words (key.map .kbyte)) = key := by
  have hsend : keyByte? ∘ encode ∘ .kbyte = some := funext fun b => keyByte?_kbyte (decode_encode_kbyte b)
  rw [keyBytes, words, List.map_map, List.filterMap_map, hsend, List.filterMap_some]

theorem decode_kbytes_ne_kclr {key : List Byte} {w : Word} (hw : w ∈ words (key.map .kbyte)) :
    decode w ≠ .command .kclr := by
  simp only [words, List.map_map, List.mem_map, Function.comp_apply] at hw
  obtain ⟨b, -, rfl⟩ := hw
  simp [decode_encode_kbyte]

/-- KCLR and the key's KBYTEs answer as R124 says and leave the key in the buffer (R100, R102). -/
theorem runCommands_expandKey (key : List Byte) (s : State) : ∃ t, t.HoldsKey key ∧
    runCommands (words (expandKey key)) s = .next (t, 0x1000#16 :: List.replicate key.length 0x2000#16) := by
  obtain ⟨t, ht⟩ := runCommands_kbytes key ({ s with KLEN := 0#9, KOVR := false }.respond 0x1#4 0#8).deliver
  have hkey : t.HoldsKey ([] ++ keyBytes (words (key.map .kbyte))) :=
    (State.HoldsKey.nil rfl rfl).runCommands (fun _ => decode_kbytes_ne_kclr) ht
  rw [List.nil_append, keyBytes_kbytes] at hkey
  exact ⟨t, hkey, runCommands_cons (transact_kclr s) ht⟩

section
variable {s : State} {key : List Byte}

theorem State.HoldsKey.klen_le (h : s.HoldsKey key) : s.KLEN ≤ 256#9 := by
  have hle : s.KLEN.toNat ≤ 256 := h.klen ▸ Nat.min_le_right ..
  exact hle

theorem State.HoldsKey.klen_ne_zero (h : s.HoldsKey key) (hne : key ≠ []) : s.KLEN ≠ 0#9 := by
  have hpos : 0 < key.length := List.length_pos_iff.2 hne
  have hklen := h.klen
  intro h0
  rw [h0, BitVec.toNat_ofNat] at hklen
  omega

/-- The buffer's key is the first 256 bytes of the key sent (R102). -/
theorem State.HoldsKey.keyList_eq (h : s.HoldsKey key) : s.keyList = key.take 256 := by
  have hlen : s.keyList.length = min key.length 256 := (length_keyList h.klen_le).trans h.klen
  refine List.ext_getElem? fun i => ?_
  by_cases hi : i < min key.length 256
  · have hi256 : i < 256 := by omega
    have hnat : (BitVec.ofNat 8 i).toNat = i := (BitVec.toNat_ofNat ..).trans (Nat.mod_eq_of_lt hi256)
    have hentry := h.entry (BitVec.ofNat 8 i) (hnat.symm ▸ hi)
    rw [getElem?_keyList h.klen_le (h.klen ▸ hi), List.getElem?_take_of_lt hi256, ← hentry, hnat]
  · rw [List.getElem?_eq_none (by omega), List.getElem?_eq_none (by rw [List.length_take]; omega)]

end

/-! ### INIT -/

/-- The state a KSA leaves once its response is taken, with the permutation and the last j of the schedule (R127). -/
def State.initialized (s : State) (p : Bytes × Byte) : State :=
  { s with
    S := p.1
    CI := 0x00#8
    CJ := 0x00#8
    RDY := true
    PHASE := .idle
    KC := 0x00#8
    KJ := p.2
    KX := BitVec.ofNat 8 (256 % s.KLEN.toNat)
    RSP := 0x3000#16 }

@[simp] theorem State.initialized_KOVR (s : State) (p : Bytes × Byte) : (s.initialized p).KOVR = s.KOVR := rfl

@[simp] theorem State.initialized_keyList (s : State) (p : Bytes × Byte) :
    (s.initialized p).keyList = s.keyList := rfl

@[simp] theorem State.initialized_cipher (s : State) (p : Bytes × Byte) : (s.initialized p).cipher =
    { permutation := p.1, cursorI := 0x00#8, cursorJ := 0x00#8 } := rfl

/-- A KSA on a key of 1 to 256 bytes, its response taken (R127). -/
theorem runCommands_ksa {s : State} (h0 : s.KLEN ≠ 0#9) (hk : s.KLEN ≤ 256#9) :
    runCommands (words [.ksa]) s = .next (s.initialized (Reference.schedule s.keyList), [0x3000#16]) :=
  runCommands_cons (ksaRunsTheDocumentsSchedule s h0 hk) rfl

theorem words_append (is js : List Instr) : words (is ++ js) = words is ++ words js := List.map_append

/-- INIT loads its key and leaves the document's schedule of it (R124). -/
theorem runCommands_expandInit {key : List Byte} (hne : key ≠ []) (s : State) : ∃ u : State, u.HoldsKey key ∧
    runCommands (words (expandInit key)) s = .next (u.initialized (Reference.schedule key),
      0x1000#16 :: (List.replicate key.length 0x2000#16 ++ [0x3000#16])) := by
  obtain ⟨u, hkey, hu⟩ := runCommands_expandKey key s
  have hksa := runCommands_ksa (hkey.klen_ne_zero hne) hkey.klen_le
  rw [hkey.keyList_eq, Reference.schedule_take] at hksa
  have hrun := runCommands_append hu hksa
  rw [← words_append] at hrun
  exact ⟨u, hkey, hrun⟩

/-- Settles O21: the document's schedule is left in S, and the buffer holds the first 256 bytes of the key. -/
theorem initIsTheDocumentsInitialize : Obligations.InitIsTheDocumentsInitialize := by
  intro key s hne
  obtain ⟨u, hkey, hrun⟩ := runCommands_expandInit hne s
  refine ⟨u.initialized (Reference.schedule key), hrun, ?_, rfl, rfl, rfl, ?_⟩
  · rw [Reference.initCipher, if_neg hne, State.initialized_cipher]
  · rw [State.initialized_keyList, hkey.keyList_eq]

/-! ### Keys of more than 256 bytes -/

/-- The state after KBYTEs that found K full, the last response taken (R101). -/
def State.overflowed (s : State) : State := { s with KOVR := true, RSP := 0x2000#16, PHASE := .idle }

@[simp] theorem State.overflowed_keyList (s : State) : s.overflowed.keyList = s.keyList := rfl

/-- The KSA neither reads nor writes KOVR, and overwrites the last response (R127). -/
theorem State.overflowed_initialized (s : State) (p : Bytes × Byte) :
    s.overflowed.initialized p = { s.initialized p with KOVR := true } := rfl

theorem runCommands_kbytes_full {s : State} (hk : ¬ s.KLEN < Config.kmax) {key : List Byte} (hne : key ≠ []) :
    ∃ rs, runCommands (words (key.map .kbyte)) s = .next (s.overflowed, rs) := by
  induction key generalizing s with
  | nil => exact absurd rfl hne
  | cons b key ih =>
    have hb := transact_kbyte (exec_kbyte_full hk b) rfl
    cases key with
    | nil => exact ⟨_, runCommands_cons hb rfl⟩
    | cons c key =>
      obtain ⟨rs, hrs⟩ := ih (s := s.overflowed) hk (List.cons_ne_nil c key)
      exact ⟨_, runCommands_cons hb hrs⟩

theorem expandKey_take_drop (n : Nat) (key : List Byte) :
    expandKey key = expandKey (key.take n) ++ (key.drop n).map .kbyte := by
  rw [expandKey, expandKey, List.cons_append, ← List.map_append, List.take_append_drop]

/-- Settles O22: the KBYTEs after the 256th only set KOVR, and the KSA keeps it. -/
theorem longKeysActAsTheirFirst256Bytes : Obligations.LongKeysActAsTheirFirst256Bytes := by
  intro key s hlong
  obtain ⟨u, hkey, hu⟩ := runCommands_expandKey (key.take 256) s
  have hlen : (key.take 256).length = 256 := by rw [List.length_take]; omega
  have hKLEN : u.KLEN = 256#9 := BitVec.eq_of_toNat_eq (by rw [hkey.klen, hlen]; rfl)
  have hKOVR : u.KOVR = false := Bool.eq_false_iff.2 fun h => by have := hkey.kovr.1 h; omega
  have h0 : u.KLEN ≠ 0#9 := by rw [hKLEN]; decide
  have hfull : ¬ u.KLEN < Config.kmax := by rw [hKLEN]; decide
  have hrest : key.drop 256 ≠ [] := fun h => by have := List.drop_eq_nil_iff.1 h; omega
  obtain ⟨rs, hv⟩ := runCommands_kbytes_full hfull hrest
  have hfirst := runCommands_append hu (runCommands_ksa h0 hkey.klen_le)
  have hall := runCommands_append (runCommands_append hu hv) (runCommands_ksa (s := u.overflowed) h0 hkey.klen_le)
  rw [← words_append] at hfirst
  rw [← words_append, ← expandKey_take_drop, ← words_append, State.overflowed_keyList,
    State.overflowed_initialized] at hall
  exact ⟨_, _, _, hfirst, (State.initialized_KOVR ..).trans hKOVR, hall⟩

/-! ### Keys that the schedule reads alike -/

/-- Two keys with the same schedule leave the same S (R124). -/
theorem runCommands_expandInit_same_S {key key' : List Byte} (hne : key ≠ []) (hne' : key' ≠ [])
    (h : Reference.schedule key = Reference.schedule key') (s : State) : ∃ t u rs rs',
    runCommands (words (expandInit key)) s = .next (t, rs) ∧
    runCommands (words (expandInit key')) s = .next (u, rs') ∧ t.S = u.S := by
  obtain ⟨u, -, hu⟩ := runCommands_expandInit hne s
  obtain ⟨v, -, hv⟩ := runCommands_expandInit hne' s
  exact ⟨_, _, _, _, hu, hv, congrArg Prod.fst h⟩

/-- Settles O23: in both parts the schedule reads the same byte of either key at every iteration. -/
theorem shortKeysCycle : Obligations.ShortKeysCycle := by
  refine ⟨fun key s hne _ => ?_, fun v n s h1 _ => ?_⟩
  · exact runCommands_expandInit_same_S hne (by simp) (Reference.schedule_cycle key).symm s
  · have hne : List.replicate n v ≠ [] := by
      rw [ne_eq, List.replicate_eq_nil_iff]
      omega
    exact runCommands_expandInit_same_S hne (List.cons_ne_nil v []) (Reference.schedule_replicate h1 v) s

end Sys2Proof.Machine
end

section
/-! The keystream (42_prga.md): GEN as one PRGA step, and CI as the count of the GEN and XOR commands performed since
the last KSA. -/

namespace Sys2Proof.Machine

/-! ### GEN is one PRGA step -/

section
variable {s : State} {i j : Byte} {m : Bytes}

/-- The PRGA step with its cursors and its new S named (R140). -/
theorem prga_eq (hi : i = s.CI + 1#8) (hj : j = s.CJ + s.S.read i) (hm : m = s.S.swap i j) :
    prga s = ({ s with S := m, CI := i, CJ := j }, m.read (m.read i + m.read j)) := by
  subst hi hj hm
  rfl

/-- GEN with RDY = 1, with the cursors and the new S of its PRGA step named (R141). -/
theorem exec_gen_prga (hr : s.RDY = true) (hi : i = s.CI + 1#8) (hj : j = s.CJ + s.S.read i)
    (hm : m = s.S.swap i j) : exec .gen s = .next { s with
      S := m, CI := i, CJ := j, PHASE := .resp, RSP := 0x40#8 ++ m.read (m.read i + m.read j) } := by
  rw [exec_gen_ready hr, prga_eq hi hj hm]
  rfl

end

/-- Settles O25: the new S is the swap of S at the two new cursors. -/
theorem genIsOnePrgaStep : Obligations.GenIsOnePrgaStep := fun s hr =>
  ⟨_, s.S.read_swap_left _ _, s.S.read_swap_right _ _, fun _ => s.S.read_swap_of_ne,
    exec_gen_prga hr rfl rfl rfl⟩

/-- Settles O29: where the cursors meet, the swap is of one entry with itself. -/
theorem equalCursorsSwapNothing : Obligations.EqualCursorsSwapNothing := fun s hr hj =>
  exec_gen_prga hr rfl hj.symm (s.S.swap_self _).symm

/-! ### CI counts the keystream bytes -/

section
variable {w : Word} {ws rs : List Word} {s t : State}

/-- A response shows a keystream byte exactly if it is no error and has GEN's or XOR's opcode (R71). -/
@[simp] theorem isKeystreamResponse_responseWord (o : Opc) (e : Bool) (d : Byte) :
    isKeystreamResponse (responseWord o e d) = (!e && (decide (o = 0x4#4) || decide (o = 0x5#4))) := by
  simp [isKeystreamResponse]

@[simp] theorem fillStep_CI (s : State) : (fillStep s).CI = s.CI := by
  by_cases h : s.KC = 0xFF#8
  · rw [fillStep_last h]
  · rw [fillStep_next h]

@[simp] theorem mixStep_CI (s : State) : (mixStep s).CI = s.CI := by
  by_cases h : s.KC = 0xFF#8
  · rw [mixStep_last h]
  · rw [mixStep_next h]

/-- FILL and MIX leave `cursor_i` alone (R121, R122). -/
@[simp] theorem microStep_CI (s : State) : (microStep s).CI = s.CI := by
  cases hp : s.PHASE with
  | idle => simp [microStep, hp]
  | fill => rw [microStep_fill hp, fillStep_CI]
  | mix => rw [microStep_mix hp, mixStep_CI]
  | resp => simp [microStep, hp]

@[simp] theorem microSteps_CI (n : Nat) (s : State) : (microSteps n s).CI = s.CI := by
  induction n generalizing s with
  | zero => rfl
  | succ n ih => rw [microSteps, ih, microStep_CI]

/-- A word answered at its accepting edge moves CI on exactly if its response shows a keystream byte (R142). -/
theorem acceptWord_CI (h : acceptWord w s = .next t) (hp : t.PHASE = .resp) :
    t.CI = if isKeystreamResponse t.RSP then s.CI + 1#8 else s.CI := by
  obtain ⟨-, rfl⟩ | ⟨b, -, -, rfl⟩ | ⟨b, -, -, rfl⟩ | ⟨-, -, rfl⟩ | ⟨-, -, rfl⟩ | ⟨-, -, rfl⟩ |
    ⟨-, -, rfl⟩ | ⟨d, -, -, rfl⟩ | ⟨d, -, -, rfl⟩ | ⟨-, rfl⟩ | ⟨o, -, rfl⟩ := acceptWord_cases h
  case inr.inr.inr.inr.inl => cases hp
  case inr.inr.inr.inr.inr.inr.inl => simp [prga_state]
  case inr.inr.inr.inr.inr.inr.inr.inr.inl => simp [prga_state]
  all_goals simp

/-- So does every word whose response is not that of a completed KSA, which clears CI (R120, R142). -/
theorem transact_CI (h : transact w s = .next t) (hk : t.RSP ≠ 0x3000#16) :
    t.CI = if isKeystreamResponse t.RSP then s.CI + 1#8 else s.CI := by
  obtain ⟨u, hu⟩ := acceptWord_next w s
  have hph := acceptWord_phase hu
  split at hph
  · rw [transact_of_accept hu, Host.Outcome.next.injEq] at h
    exact absurd (h ▸ (microSteps_fill_end 512 u hph (Nat.sub_le ..)).2) hk
  · rw [transact_of_resp hu hph] at h
    cases h
    exact acceptWord_CI hu hph

/-- A completed KSA leaves CI = 0 (R127): CI is cleared at its start, and a refused KSA answers otherwise. -/
theorem transact_ksa_CI (h : transact (encode .ksa) s = .next t) (hk : t.RSP = 0x3000#16) : t.CI = 0#8 := by
  by_cases h0 : s.KLEN = 0#9
  · rw [transact_ksa_empty h0] at h
    cases h
    have hrefused : responseWord 0x3#4 true ErrorCode.emptyKey.code ≠ 0x3000#16 := by decide
    exact absurd hk hrefused
  · rw [transact_ksa_key h0, Host.Outcome.next.injEq] at h
    rw [← h, microSteps_CI]
    rfl

/-- Words with no completed KSA among them move CI on by one for each keystream byte they show (R142). -/
theorem runCommands_CI (h : runCommands ws s = .next (t, rs)) (hk : 0x3000#16 ∉ rs) :
    t.CI = s.CI + BitVec.ofNat 8 (rs.countP isKeystreamResponse) := by
  induction ws generalizing s rs with
  | nil => cases h; simp
  | cons w ws ih =>
    obtain ⟨u, rs', hu, hr, rfl⟩ := runCommands_cons_inv h
    rw [List.mem_cons, not_or] at hk
    obtain ⟨hne, hk⟩ := hk
    rw [ih hr hk, State.deliver_CI, transact_CI hu (Ne.symm hne), List.countP_cons]
    split
    · rw [BitVec.ofNat_add, BitVec.add_assoc, BitVec.add_comm 1#8]
    · rw [Nat.add_zero]

end

/-- Settles O28: a run moves CI on by its count, from 0 after a completed KSA, and CI + 1 is never CI. -/
theorem cursorCountsTheKeystream : Obligations.CursorCountsTheKeystream := by
  refine ⟨fun ws rs s t => runCommands_CI, fun ws rs s t h hk => ?_, fun w s t h hks => ?_⟩
  · obtain ⟨u, rs', hu, hr, he⟩ := runCommands_cons_inv h
    obtain ⟨hrsp, rfl⟩ := List.cons.inj he
    rw [runCommands_CI hr hk, State.deliver_CI, transact_ksa_CI hu hrsp.symm, BitVec.zero_add,
      BitVec.toNat_ofNat]
  · have hne : t.RSP ≠ 0x3000#16 := fun e => absurd (e ▸ hks) (by decide)
    rw [transact_CI h hne, if_pos hks]
    bv_omega

end Sys2Proof.Machine
end

section
/-! Keystream application (43_apply.md): XOR as one PRGA step on a data byte, APPLY as the document's
ApplyKeystream, chunks of one stream with other commands between them, and decryption. -/

namespace Sys2Proof.Reference

@[simp] theorem length_applyKeystream (c : Cipher) (data : List Byte) :
    (applyKeystream c data).2.length = data.length := by
  induction data generalizing c with
  | nil => rfl
  | cons d data ih => simp [applyKeystream, ih]

/-- From one cipher state the same keystream comes again, and XOR with it twice changes nothing (R162). -/
theorem applyKeystream_applyKeystream (c : Cipher) (data : List Byte) :
    (applyKeystream c (applyKeystream c data).2).2 = data := by
  induction data generalizing c with
  | nil => rfl
  | cons d data ih => simp [applyKeystream, ih]

/-- Initialize gives a cipher state for every key that is not empty. -/
theorem exists_initCipher {key : List Byte} (hne : key ≠ []) : ∃ c, initCipher key = some c :=
  ⟨_, if_neg hne⟩

/-- An empty key has no cipher state (I1). -/
theorem ne_nil_of_initCipher {key : List Byte} {c : Cipher} (h : initCipher key = some c) : key ≠ [] := by
  rintro rfl
  cases h

end Sys2Proof.Reference

namespace Sys2Proof.Machine

/-! ### XOR is one PRGA step -/

section
variable {s : State} {i j : Byte} {m : Bytes}

/-- XOR with RDY = 1, with the cursors and the new S of its PRGA step named (R160). -/
theorem exec_xor_prga (d : Byte) (hr : s.RDY = true) (hi : i = s.CI + 1#8) (hj : j = s.CJ + s.S.read i)
    (hm : m = s.S.swap i j) : exec (.xor d) s = .next { s with
      S := m, CI := i, CJ := j, PHASE := .resp, RSP := 0x50#8 ++ (d ^^^ m.read (m.read i + m.read j)) } := by
  rw [exec_xor_ready hr, prga_eq hi hj hm]
  rfl

/-- XOR 0x00 answers with the keystream byte itself. -/
theorem exec_xor_zero_prga (hr : s.RDY = true) (hi : i = s.CI + 1#8) (hj : j = s.CJ + s.S.read i)
    (hm : m = s.S.swap i j) : exec (.xor 0x00#8) s = .next { s with
      S := m, CI := i, CJ := j, PHASE := .resp, RSP := 0x50#8 ++ m.read (m.read i + m.read j) } := by
  rw [exec_xor_prga 0x00#8 hr hi hj hm, BitVec.zero_xor]

end

/-- Settles O26: the new S is the swap of S at the two new cursors, for XOR as for GEN. -/
theorem xorIsOnePrgaStepOnData : Obligations.XorIsOnePrgaStepOnData := fun d s hr =>
  ⟨_, s.S.read_swap_left _ _, s.S.read_swap_right _ _, fun _ => s.S.read_swap_of_ne,
    exec_xor_prga d hr rfl rfl rfl, exec_xor_zero_prga hr rfl rfl rfl, exec_gen_prga hr rfl rfl rfl⟩

/-! ### APPLY is the document's ApplyKeystream -/

/-- The PRGA step moves the cipher state as the document's NextKeystreamByte does (R140). -/
theorem prga_cipher (s : State) : (prga s).1.cipher = (Reference.nextKeystreamByte s.cipher).1 := rfl

/-- The keystream byte is the document's (R140). -/
theorem prga_keystreamByte (s : State) : (prga s).2 = (Reference.nextKeystreamByte s.cipher).2 := rfl

section
variable {w : Word} {d : Byte} {s t : State}

theorem transact_xor_notReady (hd : decode w = .command (.xor d)) (hr : s.RDY = false) :
    transact w s = .next (s.raise 0x5#4 .notReady) :=
  transact_of_resp ((acceptWord_command hd s).trans (exec_xor_notReady hr d)) rfl

theorem transact_xor_ready (hd : decode w = .command (.xor d)) (hr : s.RDY = true) :
    transact w s = .next ((prga s).1.respond 0x5#4 (d ^^^ (prga s).2)) :=
  transact_of_resp ((acceptWord_command hd s).trans (exec_xor_ready hr d)) rfl

/-- APPLY with RDY = 1 answers the document's output bytes, moves the cipher state as the document does, and
leaves RDY and the key buffer alone (R163). -/
theorem runCommands_expandApply (hr : s.RDY = true) (data : List Byte) : ∃ t,
    runCommands (words (expandApply data)) s =
      .next (t, (Reference.applyKeystream s.cipher data).2.map (responseWord 0x5#4 false)) ∧
    t.cipher = (Reference.applyKeystream s.cipher data).1 ∧ t.RDY = true ∧ SameKeyBuffer s t := by
  induction data generalizing s with
  | nil => exact ⟨s, rfl, rfl, hr, rfl, rfl, rfl⟩
  | cons d data ih =>
    have hxor := transact_xor_ready (d := d) (decode_eq_command_iff.2 rfl) hr
    obtain ⟨t, hrun, hcipher, hrdy, hkey⟩ := ih (s := ((prga s).1.respond 0x5#4 (d ^^^ (prga s).2)).deliver) hr
    exact ⟨t, runCommands_cons hxor hrun, hcipher, hrdy, hkey⟩

end

/-- Settles O30: by induction over the data, one PRGA step for each byte. -/
theorem applyIsTheDocumentsApplyKeystream : Obligations.ApplyIsTheDocumentsApplyKeystream := by
  intro data s hr
  obtain ⟨t, hrun, hcipher, hrdy, hK, hKLEN, hKOVR⟩ := runCommands_expandApply hr data
  refine ⟨t, _, hrun, rfl, by simp, hcipher, hrdy, hK, hKLEN, hKOVR, ?_⟩
  rintro rfl
  cases hrun
  rfl

/-! ### Chunks of one stream -/

/-- The two states have the same cipher state and are both ready or both not: what XOR reads. -/
def SameStream (s t : State) : Prop := t.cipher = s.cipher ∧ t.RDY = s.RDY

section
variable {w : Word} {ws rs : List Word} {s t v : State}

theorem isXorWord_iff : isXorWord w = true ↔ ∃ d, decode w = .command (.xor d) := by
  unfold isXorWord
  split <;> simp_all

@[simp] theorem xorResponses_cons (w r : Word) (ws rs : List Word) : xorResponses (w :: ws) (r :: rs) =
    if isXorWord w then r :: xorResponses ws rs else xorResponses ws rs := by
  cases h : isXorWord w <;> simp [xorResponses, h]

/-- A word other than KSA is answered at its accepting edge (R39). -/
theorem acceptWord_of_transact (hksa : decode w ≠ .command .ksa) (h : transact w s = .next t) :
    acceptWord w s = .next t := by
  obtain ⟨u, hu⟩ := acceptWord_next w s
  have hresp : u.PHASE = .resp := (acceptWord_phase hu).trans (if_neg fun hstart => hksa hstart.1)
  rw [← h, transact_of_resp hu hresp, hu]

/-- A word that is no KSA, no XOR and no performed GEN leaves the stream alone (R161). -/
theorem acceptWord_sameStream (hksa : decode w ≠ .command .ksa)
    (hgen : s.RDY = true → decode w ≠ .command .gen) (hxor : ∀ d, decode w ≠ .command (.xor d))
    (h : acceptWord w s = .next t) : SameStream s t := by
  obtain ⟨-, rfl⟩ | ⟨b, -, -, rfl⟩ | ⟨b, -, -, rfl⟩ | ⟨hd, -⟩ | ⟨hd, -⟩ | ⟨-, -, rfl⟩ |
    ⟨hd, hr, -⟩ | ⟨d, hd, -⟩ | ⟨d, hd, -⟩ | ⟨-, rfl⟩ | ⟨o, -, rfl⟩ := acceptWord_cases h
  case inr.inr.inr.inl | inr.inr.inr.inr.inl => exact absurd hd hksa
  case inr.inr.inr.inr.inr.inr.inl => exact absurd hd (hgen hr)
  case inr.inr.inr.inr.inr.inr.inr.inl | inr.inr.inr.inr.inr.inr.inr.inr.inl => exact absurd hd (hxor d)
  all_goals exact ⟨rfl, rfl⟩

/-- An XOR word answers alike on two states with the same stream, and leaves them so (R160, R202). -/
theorem transact_xor_sameStream {d : Byte} (hd : decode w = .command (.xor d)) (hs : SameStream s v)
    (h : transact w s = .next t) : ∃ u, transact w v = .next u ∧ u.RSP = t.RSP ∧ SameStream t u := by
  obtain ⟨hcipher, hrdy⟩ := hs
  cases hr : s.RDY with
  | false =>
    rw [transact_xor_notReady hd hr] at h
    cases h
    exact ⟨_, transact_xor_notReady hd (hrdy.trans hr), rfl, hcipher, hrdy⟩
  | true =>
    rw [transact_xor_ready hd hr] at h
    cases h
    have hstate : (prga v).1.cipher = (prga s).1.cipher := by rw [prga_cipher, prga_cipher, hcipher]
    have hbyte : (prga v).2 = (prga s).2 := by rw [prga_keystreamByte, prga_keystreamByte, hcipher]
    exact ⟨_, transact_xor_ready hd (hrdy.trans hr), by simp [hbyte], hstate, hrdy⟩

/-- No transaction but KSA's writes RDY. -/
theorem transact_RDY (hksa : decode w ≠ .command .ksa) (h : transact w s = .next t) : t.RDY = s.RDY := by
  have hacc := acceptWord_of_transact hksa h
  cases hd : decode w with
  | illegal o => rw [acceptWord_illegal hd] at hacc; cases hacc; rfl
  | command i =>
    rw [acceptWord_command hd] at hacc
    obtain ⟨-, -, -, -, hrdy, -⟩ := commandsWriteOnlyTheirRegisters i s t hacc
    exact (hrdy fun e => hksa (e ▸ hd)).1

/-- The XOR words alone, from any state with the same stream, answer as they do among the other words (R161). -/
theorem runCommands_filter_isXorWord (hksa : ∀ w ∈ ws, decode w ≠ .command .ksa)
    (hgen : s.RDY = true → ∀ w ∈ ws, decode w ≠ .command .gen) (hs : SameStream s v)
    (h : runCommands ws s = .next (t, rs)) : ∃ u,
    runCommands (ws.filter isXorWord) v = .next (u, xorResponses ws rs) ∧ SameStream t u := by
  induction ws generalizing s v rs with
  | nil => cases h; exact ⟨v, rfl, hs⟩
  | cons w ws ih =>
    obtain ⟨s', rs', hw, hrun, rfl⟩ := runCommands_cons_inv h
    obtain ⟨hksa_w, hksa⟩ := List.forall_mem_cons.1 hksa
    have hgen' : s'.deliver.RDY = true → ∀ w ∈ ws, decode w ≠ .command .gen := fun hr =>
      (List.forall_mem_cons.1 (hgen ((transact_RDY hksa_w hw).symm.trans hr))).2
    by_cases hx : isXorWord w = true
    · obtain ⟨d, hd⟩ := isXorWord_iff.1 hx
      obtain ⟨v', hv, hrsp, hs'⟩ := transact_xor_sameStream hd hs hw
      obtain ⟨u, hu, hsu⟩ := ih hksa hgen' (v := v'.deliver) hs' hrun
      rw [List.filter_cons_of_pos hx, xorResponses_cons, if_pos hx, ← hrsp]
      exact ⟨u, runCommands_cons hv hu, hsu⟩
    · have hgen_w : s.RDY = true → decode w ≠ .command .gen := fun hr =>
        (List.forall_mem_cons.1 (hgen hr)).1
      obtain ⟨hcipher, hrdy⟩ := acceptWord_sameStream hksa_w hgen_w
        (fun d hd => hx (isXorWord_iff.2 ⟨d, hd⟩)) (acceptWord_of_transact hksa_w hw)
      rw [List.filter_cons_of_neg hx, xorResponses_cons, if_neg hx]
      exact ih hksa hgen' ⟨hs.1.trans hcipher.symm, hs.2.trans hrdy.symm⟩ hrun

end

/-- Settles O31: the other words leave the stream alone, and XOR reads nothing else. -/
theorem chunksMakeOneStream : Obligations.ChunksMakeOneStream := by
  intro ws rs s t hksa hgen h
  obtain ⟨u, hu, hcipher, -⟩ := runCommands_filter_isXorWord hksa hgen ⟨rfl, rfl⟩ h
  exact ⟨u, hu, hcipher.symm⟩

/-! ### Decryption -/

section
variable {key : List Byte} {c : Reference.Cipher} {s : State}

/-- The cipher state after a KSA is the document's Initialize (R124). -/
theorem initialized_cipher_of_initCipher (hc : Reference.initCipher key = some c) (s : State) :
    (s.initialized (Reference.schedule key)).cipher = c := by
  rw [Reference.initCipher, if_neg (Reference.ne_nil_of_initCipher hc), Option.some.injEq] at hc
  rw [State.initialized_cipher, hc]

/-- A KSA leaves the key in the buffer (R127). -/
theorem State.HoldsKey.initialized (h : s.HoldsKey key) (p : Bytes × Byte) : (s.initialized p).HoldsKey key :=
  h.of_same ⟨rfl, rfl, rfl⟩

/-- APPLY on a scheduled key is the document's ApplyKeystream from Initialize, and keeps the key buffer. -/
theorem State.HoldsKey.runCommands_apply (h : s.HoldsKey key) (hc : Reference.initCipher key = some c)
    (data : List Byte) : ∃ t : State, t.HoldsKey key ∧
    Machine.runCommands (words (expandApply data)) (s.initialized (Reference.schedule key)) =
      .next (t, (Reference.applyKeystream c data).2.map (responseWord 0x5#4 false)) := by
  obtain ⟨t, hrun, -, -, hkey⟩ := runCommands_expandApply (s := s.initialized (Reference.schedule key)) rfl data
  rw [initialized_cipher_of_initCipher hc] at hrun
  exact ⟨t, (h.initialized _).of_same hkey, hrun⟩

/-- A KSA on the key in the buffer, then APPLY. -/
theorem State.HoldsKey.runCommands_ksa_apply (h : s.HoldsKey key) (hc : Reference.initCipher key = some c)
    (data : List Byte) : ∃ t,
    Machine.runCommands (words (.ksa :: expandApply data)) s =
      .next (t, 0x3000#16 :: (Reference.applyKeystream c data).2.map (responseWord 0x5#4 false)) := by
  have hksa := runCommands_ksa (h.klen_ne_zero (Reference.ne_nil_of_initCipher hc)) h.klen_le
  rw [h.keyList_eq, Reference.schedule_take] at hksa
  obtain ⟨t, -, hrun⟩ := h.runCommands_apply hc data
  exact ⟨t, runCommands_append hksa hrun⟩

/-- INIT, then APPLY: INIT answers `key.length + 2` words (R124). -/
theorem runCommands_init_apply (hc : Reference.initCipher key = some c) (data : List Byte)
    (s : State) : ∃ (t : State) (qs : List Word), t.HoldsKey key ∧ qs.length = key.length + 2 ∧
    runCommands (words (expandInit key ++ expandApply data)) s =
      .next (t, qs ++ (Reference.applyKeystream c data).2.map (responseWord 0x5#4 false)) := by
  obtain ⟨u, hkey, hinit⟩ := runCommands_expandInit (Reference.ne_nil_of_initCipher hc) s
  obtain ⟨t, ht, hrun⟩ := hkey.runCommands_apply hc data
  rw [words_append]
  exact ⟨t, _, ht, by simp, runCommands_append hinit hrun⟩

end

/-- The data bytes of XOR responses are the bytes answered (R71). -/
theorem map_data_responseWord (o : Opc) (data : List Byte) :
    (data.map (responseWord o false)).map Response.data = data := by
  have hdata : Response.data ∘ responseWord o false = id := funext (Response.data_responseWord o false)
  rw [List.map_map, hdata, List.map_id]

/-- Settles O32: each time the engine applies the document's keystream from Initialize of the key, and applied
twice from one cipher state it gives the plaintext. -/
theorem decryptionUndoesEncryption : Obligations.DecryptionUndoesEncryption := by
  intro key plain s v hne
  obtain ⟨c, hc⟩ := Reference.exists_initCipher hne
  obtain ⟨t, qs, hkey, hlen, hrun⟩ := runCommands_init_apply hc plain s
  refine ⟨t, _, hrun, ?_⟩
  intro cipher
  have hcipher : cipher = (Reference.applyKeystream c plain).2 :=
    (congrArg (List.map Response.data) (List.drop_left' hlen)).trans (map_data_responseWord 0x5#4 _)
  obtain ⟨u, hu⟩ := hkey.runCommands_ksa_apply hc cipher
  obtain ⟨u', qs', -, hlen', hu'⟩ := runCommands_init_apply hc cipher v
  have hplain : (Reference.applyKeystream c cipher).2 = plain := by
    rw [hcipher, Reference.applyKeystream_applyKeystream]
  rw [hplain] at hu hu'
  exact ⟨⟨u, _, hu, rfl⟩, u', _, hu', List.drop_left' hlen'⟩

end Sys2Proof.Machine
end

section
/-! Status and illegal words (44_status.md): the bits of STATUS and the values they allow (R33, R180), and the answer
to an illegal word (R181). -/

namespace Sys2Proof.Machine

/-! ### The status byte -/

/-- The bits of STATUS, from bit 0 up, and its zero high half (R33). -/
theorem State.status_bits (s : State) :
    s.status.getLsbD 0 = s.RDY ∧ s.status.getLsbD 1 = s.kempty ∧ s.status.getLsbD 2 = s.kfull ∧
      s.status.getLsbD 3 = s.KOVR ∧ s.status.extractLsb' 4 4 = 0#4 := by
  unfold State.status
  generalize s.KOVR = o, s.kfull = f, s.kempty = e, s.RDY = r
  decide +revert

/-- Settles O33: STAT answers with STATUS, whose bits are known. -/
theorem statReadsTheStatusBits : Obligations.StatReadsTheStatusBits :=
  fun s => ⟨s.status, exec_stat s, s.status_bits⟩

/-- A full key buffer is not empty. -/
theorem State.kempty_of_kfull {s : State} (h : s.kfull = true) : s.kempty = false := by
  have hk : s.KLEN = 256#9 := of_decide_eq_true h
  rw [State.kempty, hk]
  rfl

/-- Only a full key buffer has overflowed (R180). -/
theorem State.Inv.kovr_of_not_kfull {s : State} (hs : s.Inv) (h : s.kfull = false) : s.KOVR = false :=
  Bool.eq_false_of_not_eq_true fun ho => of_decide_eq_false h (hs.kovr_full ho)

/-- Settles O34: a full key buffer is not empty and leaves KOVR and RDY free; any other has not overflowed and leaves
KEMPTY and RDY free. -/
theorem statusTakesEightValues : Obligations.StatusTakesEightValues := by
  intro s hs
  unfold State.status
  cases hf : s.kfull with
  | true =>
    rw [State.kempty_of_kfull hf]
    generalize s.KOVR = o, s.RDY = r
    decide +revert
  | false =>
    rw [hs.kovr_of_not_kfull hf]
    generalize s.kempty = e, s.RDY = r
    decide +revert

/-! ### Words written out, and illegal words -/

/-- Settles O5: the decoder computes on each of the written words. -/
theorem writtenWordsDecode : Obligations.WrittenWordsDecode := by
  unfold Obligations.WrittenWordsDecode
  decide

/-- Settles O35: the answer to any illegal word, and the four examples decode as illegal. -/
theorem illegalWordOnlyAnswers : Obligations.IllegalWordOnlyAnswers := by
  refine ⟨fun w opc s h => ?_, fun s => ⟨?_, ?_, ?_, ?_⟩⟩
  · obtain rfl := illegal_opc h
    exact ⟨rfl, acceptWord_illegal h s⟩
  · exact acceptWord_illegal (o := 0x1#4) (by decide) s
  · exact acceptWord_illegal (o := 0x2#4) (by decide) s
  · exact acceptWord_illegal (o := 0x0#4) (by decide) s
  · exact acceptWord_illegal (o := 0xF#4) (by decide) s

end Sys2Proof.Machine
end

section
/-! Errors (60_exceptions.md): the three refusals and what they leave alone (R200 to R203), the order in which the
checks are made (R206), and the engine that is offered nothing (R215). -/

namespace Sys2Proof.Machine

/-! ### The commands' own checks -/

/-- Settles O16: the branch of KSA's rule for the empty key, whose response word is 0x3103. -/
theorem ksaRefusesAnEmptyKey : Obligations.KsaRefusesAnEmptyKey := fun _ => exec_ksa_empty

/-- Settles O27: the branches of GEN's and XOR's rules for RDY = 0, whose response words are 0x4102 and 0x5102. -/
theorem notReadyRefusesGenAndXor : Obligations.NotReadyRefusesGenAndXor := fun _ hr =>
  ⟨exec_gen_notReady hr, exec_xor_notReady hr⟩

/-! ### What an error response tells -/

/-- The cause of each error, as a condition on the word and the state that meets it (R201 to R203). -/
def ErrorCode.Cause (w : Word) (s : State) : ErrorCode → Prop
  | .illegal => ¬ ∃ i, decode w = .command i
  | .notReady => s.RDY = false ∧ (decode w = .command .gen ∨ ∃ d, decode w = .command (.xor d))
  | .emptyKey => s.KLEN = 0#9 ∧ decode w = .command .ksa

section
variable {w : Word} {s t : State}

theorem not_err_respond (o : Opc) (d : Byte) : ¬ Response.err (s.respond o d).RSP = true := by simp

/-- An error response given at the accepting edge was raised, and so its cause was met: a command that is performed
answers with ERR = 0 (R71, R200). -/
theorem raised_of_err (h : acceptWord w s = .next t) (hp : t.PHASE = .resp) (he : Response.err t.RSP = true) :
    ∃ o e, t = s.raise o e ∧ ErrorCode.Cause w s e := by
  obtain ⟨-, rfl⟩ | ⟨b, -, -, rfl⟩ | ⟨b, -, -, rfl⟩ | ⟨hd, hk, rfl⟩ | ⟨-, -, rfl⟩ | ⟨hd, hr, rfl⟩ |
    ⟨-, -, rfl⟩ | ⟨d, hd, hr, rfl⟩ | ⟨d, -, -, rfl⟩ | ⟨-, rfl⟩ | ⟨o, hd, rfl⟩ := acceptWord_cases h
  · exact absurd he (not_err_respond _ _)
  · exact absurd he (not_err_respond _ _)
  · exact absurd he (not_err_respond _ _)
  · exact ⟨_, .emptyKey, rfl, hk, hd⟩
  · cases hp
  · exact ⟨_, .notReady, rfl, hr, .inl hd⟩
  · exact absurd he (not_err_respond _ _)
  · exact ⟨_, .notReady, rfl, hr, .inr ⟨d, hd⟩⟩
  · exact absurd he (not_err_respond _ _)
  · exact absurd he (not_err_respond _ _)
  · exact ⟨o, .illegal, rfl, by simp [ErrorCode.Cause, hd]⟩

end

/-- Settles O36: an error response was raised, a raise writes RSP and PHASE only, and its code names its cause. -/
theorem refusedCommandsChangeNothing : Obligations.RefusedCommandsChangeNothing := by
  intro w s t h hp he
  have hopc : Response.ropc t.RSP = Word.opc w := acceptWord_ropc h hp
  obtain ⟨o, e, rfl, hcause⟩ := raised_of_err h hp he
  have hdata : Response.data (s.raise o e).RSP = e.code := Response.data_responseWord o true e.code
  refine ⟨rfl, hopc, ?_⟩
  cases e with
  | illegal => exact .inl ⟨hdata, hcause⟩
  | notReady => exact .inr (.inl ⟨hdata, hcause⟩)
  | emptyKey => exact .inr (.inr ⟨hdata, hcause⟩)

/-! ### The order of the checks -/

/-- With rst = 1 the engine accepts nothing: cmd_ready is 0 (R38). -/
theorem accepted_reset {s : State} (hr : s.pins.rst = true) : s.accepted = none := by
  simp [State.accepted, State.outputsNow, outputs, hr]

/-- An edge with rst = 1 loads the reset values, in every phase and whatever the other pins hold (R240). -/
theorem step_reset {s : State} {p : Pins} {rest : List Pins} (hi : s.inputs = p :: rest) (hr : p.rst = true) :
    step s = .next (State.resetAt (s.draw + 1) rest) := by
  rw [step_cons hi, if_pos hr]

/-- The ILLEGAL response to a word with opcode `o`: ERR = 1 and the code 0x01 (R71, R78). -/
theorem responseWord_illegal (o : Opc) : responseWord o true ErrorCode.illegal.code = o ++ 0x101#12 := by
  decide +revert

/-- Settles O37: a reset edge accepts nothing; any other edge in IDLE accepts the word, which is decoded first and
runs its command's own check only as that command. -/
theorem errorsAreCheckedInOrder : Obligations.ErrorsAreCheckedInOrder := by
  intro p rest s hi hp
  refine ⟨fun hr => ⟨?_, _, step_reset hi hr, rfl⟩, fun hr hv => ?_⟩
  · exact accepted_reset (by rwa [State.pins_cons s p rest hi])
  · rw [step_accept hi hp hr hv]
    refine ⟨fun opc hd => ?_, fun hd hrdy => ?_, fun d hd hrdy => ?_, fun hd hklen => ?_⟩
    · exact ⟨_, acceptWord_illegal hd _, responseWord_illegal opc⟩
    · exact ⟨_, (acceptWord_command hd _).trans (exec_gen_notReady hrdy), rfl⟩
    · exact ⟨_, (acceptWord_command hd _).trans (exec_xor_notReady (s := { s with inputs := rest }) hrdy d), rfl⟩
    · exact ⟨_, (acceptWord_command hd _).trans (exec_ksa_empty hklen), rfl⟩

/-! ### Nothing offered -/

/-- Settles O56: in IDLE only rst and cmd_valid make an edge do anything but use up its pins (R39). -/
theorem idleKeepsEveryBit : Obligations.IdleKeepsEveryBit := by
  intro p rest s hi hr hv hp
  simp [step_cons hi, hr, phaseEdge, hp, hv]

end Sys2Proof.Machine
end

section
/-! Reset and hazards (70_reset_and_hazards.md): an edge with rst = 1 (R240), what crosses the two ports (R244, R246),
a new key beside the running stream (R248), and the edges a word takes to its response (R249, R251). -/

namespace Sys2Proof.Machine

/-! ### The edges a word takes to its response -/

/-- The micro-steps that a KSA under way still takes to its response; none in the other phases (R121, R122). -/
def State.microStepsLeft (s : State) : Nat :=
  match s.PHASE with
  | .idle => 0
  | .fill => 512 - s.KC.toNat
  | .mix => 256 - s.KC.toNat
  | .resp => 0

section
variable {s : State}

theorem State.microStepsLeft_fill (h : s.PHASE = .fill) : s.microStepsLeft = 512 - s.KC.toNat := by
  simp [State.microStepsLeft, h]

theorem State.microStepsLeft_mix (h : s.PHASE = .mix) : s.microStepsLeft = 256 - s.KC.toNat := by
  simp [State.microStepsLeft, h]

theorem State.microStepsLeft_resp (h : s.PHASE = .resp) : s.microStepsLeft = 0 := by
  simp [State.microStepsLeft, h]

@[simp] theorem State.microStepsLeft_withInputs (s : State) (ps : List Pins) :
    (s.withInputs ps).microStepsLeft = s.microStepsLeft := rfl

/-- Micro-steps are left in FILL and MIX alone. -/
theorem State.phase_of_microStepsLeft (h : 0 < s.microStepsLeft) : s.PHASE = .fill ∨ s.PHASE = .mix := by
  unfold State.microStepsLeft at h
  cases hp : s.PHASE <;> simp_all

@[simp] theorem fillStep_KC (s : State) : (fillStep s).KC = s.KC + 1#8 := by
  by_cases h : s.KC = 0xFF#8
  · rw [fillStep_last h, h]; rfl
  · rw [fillStep_next h]

@[simp] theorem mixStep_KC (s : State) : (mixStep s).KC = s.KC + 1#8 := by
  by_cases h : s.KC = 0xFF#8
  · rw [mixStep_last h, h]; rfl
  · rw [mixStep_next h]

/-- A micro-step leaves one fewer, and the last FILL micro-step leaves the 256 of MIX. -/
theorem microStepsLeft_microStep (h : 0 < s.microStepsLeft) :
    (microStep s).microStepsLeft + 1 = s.microStepsLeft := by
  have hlt := s.KC.isLt
  obtain hp | hp := State.phase_of_microStepsLeft h
  · have hphase := fillStep_PHASE s
    rw [microStep_fill hp, State.microStepsLeft_fill hp]
    by_cases hc : s.KC = 0xFF#8
    · rw [if_pos hc] at hphase
      rw [State.microStepsLeft_mix hphase, fillStep_KC, hc]
      rfl
    · rw [if_neg hc, hp] at hphase
      rw [State.microStepsLeft_fill hphase, fillStep_KC, toNat_counter_succ hc]
      omega
  · have hphase := mixStep_PHASE s
    rw [microStep_mix hp, State.microStepsLeft_mix hp]
    by_cases hc : s.KC = 0xFF#8
    · rw [if_pos hc] at hphase
      rw [State.microStepsLeft_resp hphase, hc]
      rfl
    · rw [if_neg hc, hp] at hphase
      rw [State.microStepsLeft_mix hphase, mixStep_KC, toNat_counter_succ hc]
      omega

/-- The micro-steps left bring a command under way to its response, where the transaction-level view ends too. -/
theorem microSteps_microStepsLeft (h : s.PHASE ≠ .idle) :
    microSteps s.microStepsLeft s = microSteps 512 s := by
  obtain ⟨hresp, hle⟩ : (microSteps s.microStepsLeft s).PHASE = .resp ∧ s.microStepsLeft ≤ 512 := by
    cases hp : s.PHASE with
    | idle => exact absurd hp h
    | fill =>
      rw [State.microStepsLeft_fill hp]
      exact ⟨(microSteps_fill_end _ s hp le_rfl).1, Nat.sub_le ..⟩
    | mix =>
      rw [State.microStepsLeft_mix hp]
      exact ⟨(microSteps_mix_end _ s hp le_rfl).1, by omega⟩
    | resp =>
      rw [State.microStepsLeft_resp hp]
      exact ⟨hp, Nat.zero_le _⟩
  rw [← Nat.add_sub_cancel' hle, microSteps_add, microSteps_resp hresp]

/-- The micro-steps that the accepting edge leaves: all 512 for a KSA with a key, and none for any other word. -/
theorem acceptWord_microStepsLeft {w : Word} {t : State} (h : acceptWord w s = .next t) :
    t.microStepsLeft = if decode w = .command .ksa ∧ s.KLEN ≠ 0#9 then 512 else 0 := by
  have hphase := acceptWord_phase h
  by_cases hstart : decode w = .command .ksa ∧ s.KLEN ≠ 0#9
  · obtain ⟨hd, hk⟩ := hstart
    rw [acceptWord_command hd, exec_ksa_key hk] at h
    cases h
    rw [if_pos ⟨hd, hk⟩]
    rfl
  · rw [if_neg hstart] at hphase ⊢
    exact State.microStepsLeft_resp hphase

theorem microSteps_withInputs (n : Nat) (s : State) (ps : List Pins) :
    microSteps n (s.withInputs ps) = (microSteps n s).withInputs ps := by
  induction n generalizing s with
  | zero => rfl
  | succ n ih => rw [microSteps, microStep_withInputs, ih, microSteps]

/-- Without a reset an edge in FILL or MIX is a micro-step and uses up its pins (R39). -/
theorem step_microStep (hr : s.pins.rst = false) (h : 0 < s.microStepsLeft) :
    step s = .next ((microStep s).withInputs s.inputs.tail) := by
  have hconsume : s.consume = s.withInputs s.inputs.tail := rfl
  rw [step_eq, clockEdge, hr, ← microStep_withInputs, ← hconsume]
  obtain hp | hp := State.phase_of_microStepsLeft h
  · simp [phaseEdge, microStep, hp]
  · simp [phaseEdge, microStep, hp]

/-- Without a reset a KSA under way makes one micro-step an edge, whatever the other pins hold. -/
theorem run_microSteps {n : Nat} (hr : NoReset s.inputs) (hn : n ≤ s.microStepsLeft) :
    Host.Core.run Sys2Proof.core n s = .next ((microSteps n s).withInputs (s.inputs.drop n)) ∧
      (microSteps n s).microStepsLeft + n = s.microStepsLeft := by
  induction n generalizing s with
  | zero => exact ⟨rfl, rfl⟩
  | succ n ih =>
    have hpos : 0 < s.microStepsLeft := by omega
    have hleft := microStepsLeft_microStep hpos
    have hstep := step_microStep hr.pins_rst hpos
    obtain ⟨hrun, hleft'⟩ := ih (s := (microStep s).withInputs s.inputs.tail) (hr.step hstep)
      (by rw [State.microStepsLeft_withInputs]; omega)
    simp only [microSteps_withInputs, State.microStepsLeft_withInputs] at hleft'
    refine ⟨?_, by rw [microSteps]; omega⟩
    rw [run_succ hstep, hrun, microSteps_withInputs, microSteps, ← List.drop_tail]
    rfl

end

/-- Both ports are closed in FILL and MIX (R38). -/
theorem outputs_closed {s : State} (h : 0 < s.microStepsLeft) (rst : Bool) :
    (outputs s rst).rspValid = false ∧ (outputs s rst).cmdReady = false := by
  obtain hp | hp := State.phase_of_microStepsLeft h
  · simp [outputs, hp]
  · simp [outputs, hp]

/-- Settles O46: after its accepting edge a word takes one edge for each micro-step that edge leaves, and both ports
are closed while any is left. -/
theorem everyWordCompletesInBoundedTime : Obligations.EveryWordCompletesInBoundedTime := by
  intro w p rest s hp hi hoffer hrest n
  obtain ⟨hrst, hvalid, rfl⟩ := hoffer
  obtain ⟨u, hu⟩ := acceptWord_next p.cmdData s
  have hbusy : u.PHASE ≠ .idle := by rw [acceptWord_phase hu]; split <;> simp
  have hn : n = u.microStepsLeft + 1 := by rw [acceptWord_microStepsLeft hu]; split <;> simp [n, *]
  have hstep : step s = .next (u.withInputs rest) :=
    (step_accept hi hp hrst hvalid).trans (acceptWord_withInputs rest hu)
  have hrun : ∀ k ≤ u.microStepsLeft, Host.Core.run Sys2Proof.core (k + 1) s =
      .next ((microSteps k u).withInputs (rest.drop k)) ∧
      (microSteps k u).microStepsLeft + k = u.microStepsLeft := by
    intro k hk
    have h := run_microSteps (s := u.withInputs rest) hrest hk
    rw [microSteps_withInputs] at h
    rwa [run_succ hstep]
  rw [hn]
  constructor
  · refine ⟨_, transact_of_accept hu, ?_⟩
    rw [(hrun _ le_rfl).1, microSteps_microStepsLeft hbusy, hi]
    rfl
  · intro m t hm hlt h
    obtain ⟨k, rfl⟩ := Nat.exists_eq_succ_of_ne_zero hm.ne'
    obtain ⟨hk, hleft⟩ := hrun k (by omega)
    rw [hk] at h
    cases h
    exact outputs_closed (by rw [State.microStepsLeft_withInputs]; omega) false

/-! ### A new key beside the running stream -/

section
variable {w : Word} {ws rs : List Word} {s t v : State}

/-- Words that load a key leave the stream alone (R248). -/
theorem runCommands_keyWords_sameStream
    (hw : ∀ w ∈ ws, decode w = .command .kclr ∨ ∃ b, decode w = .command (.kbyte b))
    (h : runCommands ws s = .next (t, rs)) : SameStream s t := by
  induction ws generalizing s rs with
  | nil => cases h; exact ⟨rfl, rfl⟩
  | cons w ws ih =>
    obtain ⟨s', rs', hs', hrun, -⟩ := runCommands_cons_inv h
    obtain ⟨hw, hws⟩ := List.forall_mem_cons.1 hw
    have hone : SameStream s s' := by
      obtain hd | ⟨b, hd⟩ := hw <;>
        exact acceptWord_sameStream (by simp [hd]) (by simp [hd]) (by simp [hd])
          (acceptWord_of_transact (by simp [hd]) hs')
    obtain ⟨hcipher, hrdy⟩ := ih hws hrun
    exact ⟨hcipher.trans hone.1, hrdy.trans hone.2⟩

/-- A GEN answers alike on two states that are ready and have the same stream, and leaves them so (R141). -/
theorem transact_gen_sameStream (hd : decode w = .command .gen) (hr : s.RDY = true) (hs : SameStream s v)
    (h : transact w s = .next t) : ∃ u, transact w v = .next u ∧ u.RSP = t.RSP ∧ SameStream t u := by
  have hgen : ∀ {s : State}, s.RDY = true → transact w s = .next ((prga s).1.respond 0x4#4 (prga s).2) :=
    fun hr => transact_of_resp ((acceptWord_command hd _).trans (exec_gen_ready hr)) rfl
  obtain ⟨hcipher, hrdy⟩ := hs
  rw [hgen hr] at h
  cases h
  have hstate : (prga v).1.cipher = (prga s).1.cipher := by rw [prga_cipher, prga_cipher, hcipher]
  have hbyte : (prga v).2 = (prga s).2 := by rw [prga_keystreamByte, prga_keystreamByte, hcipher]
  exact ⟨_, hgen (hrdy.trans hr), by simp [hbyte], hstate, hrdy⟩

end

/-- Settles O14: the key words leave the stream alone, and GEN and XOR read nothing else. -/
theorem rekeyingDrawsFromTheOldStream : Obligations.RekeyingDrawsFromTheOldStream := by
  intro ws w s hr hws hw
  obtain ⟨v, rs, hv⟩ := runCommands_next ws s
  obtain ⟨u, hu⟩ := transact_next w s
  have hs : SameStream s v := runCommands_keyWords_sameStream hws hv
  obtain ⟨t, ht, hrsp, hcipher, -⟩ : ∃ t, transact w v = .next t ∧ t.RSP = u.RSP ∧ SameStream u t := by
    obtain hd | ⟨d, hd⟩ := hw
    · exact transact_gen_sameStream hd hr hs hu
    · exact transact_xor_sameStream hd hs hu
  refine ⟨t.deliver, u.deliver, rs, u.RSP, ?_, runCommands_cons hu rfl, hcipher⟩
  rw [← hrsp]
  exact runCommands_append hv (runCommands_cons ht rfl)

/-! ### A reset edge -/

/-- With rst = 1 the engine delivers nothing: rsp_valid is 0 (R38). -/
theorem delivered_reset {s : State} (hr : s.pins.rst = true) : s.delivered = none := by
  simp [State.delivered, State.outputsNow, outputs, hr]

/-- Settles O40: rst masks both ports, and each of the two edges loads the reset values. -/
theorem resetEdgeLoadsTheTable : Obligations.ResetEdgeLoadsTheTable := by
  intro p rest s hi hr
  have hpins : s.pins.rst = true := by rwa [State.pins_cons s p rest hi]
  exact ⟨by simp [outputs, hr], by simp [outputs, hr], accepted_reset hpins, delivered_reset hpins, _,
    step_reset hi hr, rfl, fun q more hmore hq => ⟨_, step_reset hmore hq, rfl⟩⟩

/-! ### The command port -/

section
variable {s : State} {p q : Pins} {rest : List Pins}

/-- A word is transferred where cmd_valid and cmd_ready are both 1, and it is the one on cmd_data (R244). -/
theorem accepted_eq_some_iff (hi : s.inputs = p :: rest) (w : Word) : s.accepted = some w ↔
    p.cmdValid = true ∧ (outputs s p.rst).cmdReady = true ∧ p.cmdData = w := by
  simp [State.accepted, State.outputsNow, State.pins_cons s p rest hi, and_assoc]

/-- Where an idle engine that is not reset accepts no word, none is offered. -/
theorem cmdValid_of_accepted_none (hi : s.inputs = p :: rest) (hp : s.PHASE = .idle) (hr : p.rst = false)
    (h : s.accepted = none) : p.cmdValid = false := by
  rw [accepted_idle hp (by rwa [State.pins_cons s p rest hi]), State.pins_cons s p rest hi] at h
  simpa using h

/-- An engine that is offered no word in IDLE reads rsp_ready alone. -/
theorem phaseEdge_congr (hy : p.rspReady = q.rspReady) (hp : s.PHASE = .idle → p.cmdValid = false)
    (hq : s.PHASE = .idle → q.cmdValid = false) : phaseEdge p s = phaseEdge q s := by
  cases h : s.PHASE with
  | idle => simp [phaseEdge, h, hp h, hq h]
  | fill => simp [phaseEdge, h]
  | mix => simp [phaseEdge, h]
  | resp => simp [phaseEdge, h, hy]

end

/-- Settles O43: an accepted word finds the engine idle and not reset, and so the edge runs it; an edge that accepts
none reads neither cmd_valid nor cmd_data. -/
theorem wordsTransferOnlyWhenReady : Obligations.WordsTransferOnlyWhenReady := by
  refine ⟨fun p rest s hi => ⟨accepted_eq_some_iff hi, fun w h => ?_⟩, fun p q rest s hrst hy hp hq => ?_⟩
  · obtain ⟨hv, hready, rfl⟩ := (accepted_eq_some_iff hi w).1 h
    obtain ⟨hidle, hr⟩ := ((outputsFollowPhaseAndReset s p.rst).1).1 hready
    exact step_accept hi hidle hr hv
  · rw [step_cons (p := p) (ps := rest) rfl, step_cons (p := q) (ps := rest) rfl, hrst]
    cases hr : q.rst with
    | true => rfl
    | false =>
      exact phaseEdge_congr hy
        (cmdValid_of_accepted_none (s := { s with inputs := p :: rest }) rfl · (hrst.trans hr) hp)
        (cmdValid_of_accepted_none (s := { s with inputs := q :: rest }) rfl · hr hq)

/-! ### The response port -/

section
variable {s : State} {p : Pins} {rest : List Pins}

/-- Without a reset an edge in RESP takes the response, or leaves it waiting (R39). -/
theorem step_resp (hi : s.inputs = p :: rest) (hr : p.rst = false) (hp : s.PHASE = .resp) :
    step s = .next (if p.rspReady then { s with PHASE := .idle, inputs := rest } else { s with inputs := rest }) := by
  simp only [step_cons hi, hr, phaseEdge, hp]
  cases p.rspReady <;> rfl

/-- In every other phase an edge does not read rsp_ready. -/
theorem phaseEdge_rspReady (hp : s.PHASE ≠ .resp) (b : Bool) :
    phaseEdge { p with rspReady := b } s = phaseEdge p s := by
  cases h : s.PHASE with
  | idle => simp [phaseEdge, h]
  | fill => simp [phaseEdge, h]
  | mix => simp [phaseEdge, h]
  | resp => exact absurd h hp

end

/-- Settles O44: the edge in RESP with rsp_ready 1 and 0, and the edge in any other phase. -/
theorem responsesWaitUntilTaken : Obligations.ResponsesWaitUntilTaken := by
  intro p rest s hr hi
  have hpins := State.pins_cons s p rest hi
  refine ⟨fun hp hy => ⟨?_, ?_⟩, fun hp hy => ⟨?_, ?_⟩, fun hp => ⟨delivered_of_ne_resp hp, fun b => ?_⟩⟩
  · rw [delivered_resp hp (hpins ▸ hr), hpins, if_pos hy]
  · rw [step_resp hi hr hp, if_pos hy]
  · rw [delivered_resp hp (hpins ▸ hr), hpins, if_neg (by simp [hy])]
  · rw [step_resp hi hr hp, if_neg (by simp [hy])]
  · rw [step_cons hi, step_cons (s := { s with inputs := _ }) rfl, hr]
    exact phaseEdge_rspReady (s := { s with inputs := rest }) hp b

end Sys2Proof.Machine
end

section
/-! The encoder and the decoder undo each other (30_encoding.md R70, R73, R74), and so do the two directions of the
byte order of a serialised word (20_memory.md R53). -/

namespace Sys2Proof

/-! ### Encoding and decoding -/

/-- Settles O1: the decoder answers a command on the command's encoding. -/
theorem decodeOfEncode : Obligations.DecodeOfEncode := fun _ => decode_eq_command_iff.2 rfl

/-- Settles O2: the decoder answers a command on no word but its encoding. -/
theorem encodeOfDecode : Obligations.EncodeOfDecode := fun _ _ h => (decode_eq_command_iff.1 h).symm

/-! ### The bytes of a word -/

/-- The first byte of a word is its high half (R53). -/
theorem Word.toBytes_append (hi lo : Byte) : Word.toBytes (hi ++ lo : Word) = [hi, lo] := by
  have hhigh : (hi ++ lo : Word).extractLsb' 8 8 = hi := BitVec.extractLsb'_append_eq_left
  have hlow : (hi ++ lo : Word).extractLsb' 0 8 = lo := BitVec.extractLsb'_append_eq_right
  rw [Word.toBytes, hhigh, hlow]

/-- A word is read back from its two bytes (R53). -/
theorem Word.ofBytes_extractLsb' (w : Word) : Word.ofBytes (w.extractLsb' 8 8) (w.extractLsb' 0 8) = w :=
  (BitVec.extractLsb'_append_extractLsb'_eq_extractLsb' rfl).trans BitVec.extractLsb'_eq_self

/-- A stream that begins with a word's bytes decodes that word first (R53, R76). -/
theorem decodeBytes_toBytes_append (w : Word) (rest : List Byte) :
    decodeBytes (Word.toBytes w ++ rest) = some (decode w, rest) :=
  congrArg (fun v => some (decode v, rest)) w.ofBytes_extractLsb'

/-- Settles O6: the halves of a word are its bytes, and joined again they are the word. -/
theorem serialisedWordHighByteFirst : Obligations.SerialisedWordHighByteFirst :=
  ⟨Word.toBytes_append, decodeBytes_toBytes_append⟩

end Sys2Proof
end
